-- ==== Sys2Proof/Word.lean ====
section
/-! DEFINITION. The word types of the block: rule R7 makes every data quantity an unsigned 8-bit
number and rule R70 makes a command word exactly 40 bits. -/

namespace Sys2Proof

/-- An unsigned 8-bit quantity (rule R7): a duty-cycle length, the step counter, a ramp bound or value. -/
abbrev Byte := BitVec 8

/-- A 40-bit command word as it stands on the port `cmd[39:0]` (rules R39, R70). -/
abbrev CmdWord := BitVec 40

end Sys2Proof
end

