-- ==== Sys2Proof/Syntax.lean ====
section
/-! DEFINITION. The six operations of spec/opcode_table.json, and the listing lines of rules R80 and
R81 in which the spec writes input sequences. Operands are unsigned numbers (rules R9, R74); their
field widths are checked in WellFormed. -/

namespace Sys2Proof

/-- The direction of a ramp unit, `RD` (rule R29). -/
inductive Direction where
  | rising
  | falling
  deriving DecidableEq, Repr

/-- The three channels of a pixel (rule R22). -/
inductive Channel where
  | red
  | green
  | blue
  deriving DecidableEq, Repr

/-- One constructor per row of the opcode table (rule R16). Reserved words are no row: the decoder
rejects them by name and the machine runs them as NOP (rule R161). -/
inductive Instr where
  /-- `NOP` (rule R160). -/
  | nop
  /-- `SETI p, r, g, b` (rule R131). -/
  | seti (p r g b : Nat)
  /-- `RINIT u, bound, value, dir` (rule R103). -/
  | rinit (u bound value : Nat) (dir : Direction)
  /-- `RSTEP u, s` (rule R110). -/
  | rstep (u s : Nat)
  /-- `RUP u, s` (rule R116). -/
  | rup (u s : Nat)
  /-- `PWMSTEP`, carried by the tick pin and not by a command word (rules R78, R140). -/
  | pwmstep
  deriving DecidableEq, Repr

/-- One line of the listing notation: rule R80's lines, then rule R81's pseudo-operations. -/
inductive Line where
  /-- `RESET`. -/
  | reset
  /-- `IDLE`. -/
  | idle
  /-- `TICK`. -/
  | tick
  /-- `NOP`, `SETI …`, `RINIT …`, `RSTEP …` or `RUP …` alone on an edge. -/
  | command (i : Instr)
  /-- `TICK + <command>`. -/
  | tickWith (i : Instr)
  /-- `WORD w`, a literal word. -/
  | word (w : Nat)
  /-- `TICK n`. -/
  | ticks (n : Nat)
  /-- `IDLE n`. -/
  | idles (n : Nat)
  /-- `RSET u, bound`. -/
  | rset (u bound : Nat)
  /-- `SETC p, c, v`. -/
  | setc (p : Nat) (c : Channel) (v : Nat)
  deriving DecidableEq, Repr

end Sys2Proof
end

