-- ==== Sys2Proof/WellFormed.lean ====
section
/-! DEFINITION. Which instructions have an encoding: every operand fits its field of rule R71 (8 bits
for pixel, intensities, bound, value and step size, 4 bits for a unit). A well-formed operand may
still be one the block ignores (rules R76, R80). -/

namespace Sys2Proof

/-- The number fits an 8-bit operand field (rules R71, R80). -/
abbrev fitsByte (n : Nat) : Bool := decide (n < 256)

/-- The number fits the 4-bit unit field (rules R71, R80). -/
abbrev fitsUnit (n : Nat) : Bool := decide (n < 16)

/-- Every operand of the instruction fits its field. -/
def Instr.wellFormed : Instr → Bool
  | .nop => true
  | .seti p r g b => fitsByte p && fitsByte r && fitsByte g && fitsByte b
  | .rinit u bound value _ => fitsUnit u && fitsByte bound && fitsByte value
  | .rstep u s => fitsUnit u && fitsByte s
  | .rup u s => fitsUnit u && fitsByte s
  | .pwmstep => true

/-- `wellFormed` as a proposition. -/
abbrev Instr.WellFormed (i : Instr) : Prop := i.wellFormed = true

/-- The instruction goes through the command port: every one but PWMSTEP (rule R78). -/
def Instr.isCommand : Instr → Bool
  | .nop => true
  | .seti _ _ _ _ => true
  | .rinit _ _ _ _ => true
  | .rstep _ _ => true
  | .rup _ _ => true
  | .pwmstep => false

/-- What the assembler accepts (rules R80, R81): operands that fit, a 40-bit literal, commands the
command port can carry, and `SETC` only where `MAX_INTENSITY < 255`. -/
def Line.wellFormed (maxIntensity : Nat) : Line → Bool
  | .reset => true
  | .idle => true
  | .tick => true
  | .command i => i.isCommand && i.wellFormed
  | .tickWith i => i.isCommand && i.wellFormed
  | .word w => decide (w < 2 ^ 40)
  | .ticks _ => true
  | .idles _ => true
  | .rset u bound => fitsUnit u && fitsByte bound
  | .setc p _ v => fitsByte p && fitsByte v && decide (maxIntensity < 255)

end Sys2Proof
end

