-- ==== Sys2Proof/Decode.lean ====
section
/-! DEFINITION. Decoding of the two carriers of an operation, the 40-bit command word and the tick pin
(rules R70, R71, R73 to R75, R78), and the encoder after it. -/

namespace Sys2Proof

/-- What carries an operation to the block (rule R70): a command word, or the level of `pwm_tick`. -/
inductive OpWord where
  | command (w : CmdWord)
  | tick (level : Bool)
  deriving DecidableEq, Repr

/-- Why a carrier is no operation of the table. Each rejection executes as NOP (rules R75, R161), so
none ends a run. -/
inductive DecodeReject where
  /-- `op` is one of 0x2 .. 0x7, 0xB .. 0xF (rule R75). -/
  | unassignedOpcode (op : BitVec 4)
  /-- `op` is assigned and a must-be-zero field of rule R73 is not zero (rule R75). -/
  | nonzeroUnusedField (op : BitVec 4)
  /-- `pwm_tick = 0`: no PWMSTEP at this edge (rule R78). -/
  | noTick
  deriving DecidableEq, Repr

/-- The decoder's answer: an operation, or a rejection by name. -/
inductive Decoded where
  | op (i : Instr)
  | rejected (why : DecodeReject)
  deriving DecidableEq, Repr

/-- `op = cmd[39:36]` (rule R71). -/
def opField (w : CmdWord) : BitVec 4 := w.extractLsb' 36 4
/-- `u = cmd[35:32]` (rule R71). -/
def unitField (w : CmdWord) : BitVec 4 := w.extractLsb' 32 4
/-- `a = cmd[31:24]` (rule R71). -/
def aField (w : CmdWord) : Byte := w.extractLsb' 24 8
/-- `b = cmd[23:16]` (rule R71). -/
def bField (w : CmdWord) : Byte := w.extractLsb' 16 8
/-- `c = cmd[15:8]` (rule R71). -/
def cField (w : CmdWord) : Byte := w.extractLsb' 8 8
/-- `d = cmd[7:0]` (rule R71). -/
def dField (w : CmdWord) : Byte := w.extractLsb' 0 8

/-- 0 = rising, 1 = falling (rule R29). -/
def Direction.ofBit (bit : Bool) : Direction := if bit then .falling else .rising

/-- 0 = rising, 1 = falling (rule R29). -/
def Direction.toBit : Direction → Bool
  | .rising => false
  | .falling => true

/-- `Decode(cmd)` of rule R73: read `op`, then check the fields the command does not use. Operands are
whole fields read as unsigned numbers (rule R74). -/
def decodeCommand (w : CmdWord) : Decoded :=
  match (opField w).toNat with
  | 0x0 =>
    if w.extractLsb' 0 36 = 0 then .op .nop
    else .rejected (.nonzeroUnusedField (opField w))
  | 0x1 =>
    if unitField w = 0 then
      .op (.seti (aField w).toNat (bField w).toNat (cField w).toNat (dField w).toNat)
    else .rejected (.nonzeroUnusedField (opField w))
  | 0x8 =>
    if (cField w).extractLsb' 1 7 = 0 ∧ dField w = 0 then
      .op (.rinit (unitField w).toNat (aField w).toNat (bField w).toNat
        (Direction.ofBit ((cField w).getLsbD 0)))
    else .rejected (.nonzeroUnusedField (opField w))
  | 0x9 =>
    if bField w = 0 ∧ cField w = 0 ∧ dField w = 0 then
      .op (.rstep (unitField w).toNat (aField w).toNat)
    else .rejected (.nonzeroUnusedField (opField w))
  | 0xA =>
    if bField w = 0 ∧ cField w = 0 ∧ dField w = 0 then
      .op (.rup (unitField w).toNat (aField w).toNat)
    else .rejected (.nonzeroUnusedField (opField w))
  | _ => .rejected (.unassignedOpcode (opField w))

/-- The tick pin's encoding (rule R78): level 1 is one PWMSTEP, level 0 is none. -/
def decodeTick (level : Bool) : Decoded :=
  if level then .op .pwmstep else .rejected .noTick

/-- Decoding of either carrier. Total, and the same in every state (rule R77). -/
def decode : OpWord → Decoded
  | .command w => decodeCommand w
  | .tick level => decodeTick level

/-- `cmd = {op, u, a, b, c, d}`, format C of rule R71. -/
def formatC (op u : BitVec 4) (a b c d : Byte) : CmdWord :=
  op ++ u ++ a ++ b ++ c ++ d

/-- An operand placed in an 8-bit field. -/
def byteOf (n : Nat) : Byte := BitVec.ofNat 8 n

/-- A unit index placed in the 4-bit field. -/
def unitOf (n : Nat) : BitVec 4 := BitVec.ofNat 4 n

/-- The carrier of a well-formed instruction, from the fixed-width patterns of rule R73 and the tick
pin of rule R78. -/
def encode : Instr → OpWord
  | .nop => .command (formatC 0x0 0 0 0 0 0)
  | .seti p r g b => .command (formatC 0x1 0 (byteOf p) (byteOf r) (byteOf g) (byteOf b))
  | .rinit u bound value dir =>
    .command (formatC 0x8 (unitOf u) (byteOf bound) (byteOf value)
      (0#7 ++ BitVec.ofBool dir.toBit) 0)
  | .rstep u s => .command (formatC 0x9 (unitOf u) (byteOf s) 0 0 0)
  | .rup u s => .command (formatC 0xA (unitOf u) (byteOf s) 0 0 0)
  | .pwmstep => .tick true

/-- The carrier that a row of spec/opcode_table.json numbers as `w`: a row of one byte or less is the
tick pin (its bit 0; the pin has no other bit), any wider row is a command word. -/
def tableWord (nbits w : Nat) : OpWord :=
  if nbits ≤ 8 then .tick (w.testBit 0) else .command (BitVec.ofNat 40 w)

/-- The instruction the decoder reads from the table's bits `w`, none where it rejects. -/
def decodeTableWord (nbits w : Nat) : Option Instr :=
  match decode (tableWord nbits w) with
  | .op i => some i
  | .rejected _ => none

end Sys2Proof
end

