-- ==== Sys2Proof/Config.lean ====
section
/-! DEFINITION. The implementation parameters of rule R6 and the constraints rules R6 and R52 to R54
put on them, with the spec's defaults (REF_LUT of rule R56 among them). The block has no free value:
no rule leaves the result of a completed operation open, so no opaque constant stands here. -/

namespace Sys2Proof

/-- What is fixed when the block is built (rules R6, R191). `MAX_INTENSITY` and the modulus `M` are
read off the table: it has exactly `MAX_INTENSITY + 1` entries (rule R51) and `M = LUT[MAX_INTENSITY]`
(rule R54). -/
structure Params where
  /-- `PIXEL_COUNT`. -/
  pixelCount : Nat
  /-- `LUT`, entry `i` at position `i`. -/
  lut : List Byte
  /-- `RAMP_UNITS`. -/
  rampUnits : Nat
  deriving DecidableEq, Repr

namespace Params

/-- `MAX_INTENSITY`: the last index of the table (rule R51). -/
def maxIntensity (P : Params) : Nat := P.lut.length - 1

/-- `M = LUT[MAX_INTENSITY]`, the step counter's modulus (rules R6, R54). -/
def modulus (P : Params) : Nat := (P.lut.getD P.maxIntensity 0).toNat

/-- Rule R53: the table is non-decreasing. (Rule R52, entries in 0 .. 255, is the entry type.) -/
abbrev Monotone (P : Params) : Prop := P.lut.Pairwise fun x y => x.toNat ≤ y.toNat

/-- The legal parameter values: the ranges of rule R6 and the table constraints of rules R52 to R54. -/
abbrev Legal (P : Params) : Prop :=
  (1 ≤ P.pixelCount ∧ P.pixelCount ≤ 256) ∧ (2 ≤ P.lut.length ∧ P.lut.length ≤ 256) ∧
    P.Monotone ∧ 1 ≤ P.modulus ∧ P.rampUnits ≤ 16

end Params

/-- `REF_LUT` of rule R56: entry `i` is `(255*i*i + 3968) div 3969` for `i` in 0 .. 63. The spec's own
table, not the repository's. -/
def refLut : List Byte :=
  (List.range 64).map fun i => BitVec.ofNat 8 ((255 * i * i + 3968) / 3969)

/-- The defaults of rule R6: 5 pixels, `MAX_INTENSITY = 63` with `REF_LUT`, 3 ramp units. -/
def Params.default : Params := { pixelCount := 5, lut := refLut, rampUnits := 3 }

end Sys2Proof
end

