-- ==== Sys2Proof/Machine/State.lean ====
section
/-! DEFINITION. The state of the block, exactly rule R20's, with what the step needs beside it: the
table (a parameter, never written) and the inputs the host and the tick source present at the coming
clock edges (rules R13, R39). -/

namespace Sys2Proof.Machine

/-- Three values of one pixel, in channel order 0 = red, 1 = green, 2 = blue (rule R22). -/
structure Rgb (α : Type) where
  red : α
  green : α
  blue : α
  deriving DecidableEq, Repr

/-- One pixel: its stored duty-cycle lengths and its output registers (rules R21, R25). -/
structure Pixel where
  /-- `DUTY[p][0..2]`, 8 bits each. -/
  duty : Rgb Byte
  /-- `OUT[p][0..2]`, 1 = on. -/
  out : Rgb Bool
  deriving DecidableEq, Repr

/-- One ramp unit (rules R26 to R30). -/
structure RampUnit where
  /-- `RB[u]`, the bound. -/
  rb : Byte
  /-- `RV[u]`, the value. -/
  rv : Byte
  /-- `RD[u]`, the direction. -/
  rd : Direction
  /-- `RC[u]`, the result of the latest RSTEP or RUP. -/
  rc : Bool
  deriving DecidableEq, Repr

/-- What the block samples at one rising edge of `clk` (rule R39). -/
structure EdgeInput where
  rst : Bool
  pwmTick : Bool
  cmdValid : Bool
  cmd : CmdWord
  deriving DecidableEq, Repr

/-- The state. `PIXEL_COUNT` is the length of `pixels` and `RAMP_UNITS` the length of `units` (the
block holds exactly that many, rule R20); no operation changes either length. -/
structure State where
  /-- `LUT` (rule R51): a parameter of the block, not state of it (rule R33); nothing writes it. -/
  lut : List Byte
  /-- `DUTY` and `OUT`, one entry per pixel. -/
  pixels : List Pixel
  /-- `CNT`, the PWM step counter (rule R24). -/
  cnt : Byte
  /-- `RB`, `RV`, `RD`, `RC`, one entry per ramp unit. -/
  units : List RampUnit
  /-- The model's own: the inputs of the coming clock edges, the next one first. -/
  inputs : List EdgeInput
  deriving DecidableEq, Repr

/-- The block never faults: it raises no exception and has no trap (rules R17, R170). No constructor
is raised by anybody, which is safe: there is no stop of this kind to be wrong about. -/
inductive Fault where
  deriving DecidableEq, Repr

/-- Why a step can be refused. -/
inductive Refusal where
  /-- An instruction that has no meaning yet. Raised only by an arm of exec; safe. Every instruction
  has its meaning, so no arm raises it. -/
  | notModelled (mnemonic : String)
  /-- RSTEP or RUP on an existing unit with a step size above `RB[u] + 1`, which the spec gives no
  meaning and asks a model to refuse (rule R102; 93_implementation_defined.md U1). Raised by
  execRstep and execRup; safe: nothing can be proved of a run that goes on from it. -/
  | stepSizeAboveBound
  deriving DecidableEq, Repr

/-- A pixel after reset: never on, output off (rule R41). -/
def Pixel.zero : Pixel := { duty := ⟨0, 0, 0⟩, out := ⟨false, false, false⟩ }

/-- A ramp unit after reset: bound 0, value 0, rising, no completion reported (rule R41). -/
def RampUnit.zero : RampUnit := { rb := 0, rv := 0, rd := .rising, rc := false }

/-- The reset state of a block built with parameters `P` (rule R41), no input presented yet. -/
def State.resetWith (P : Params) : State :=
  { lut := P.lut
    pixels := List.replicate P.pixelCount Pixel.zero
    cnt := 0
    units := List.replicate P.rampUnits RampUnit.zero
    inputs := [] }

/-- The machine right after reset, with the default parameters of rule R6. -/
def State.reset : State := State.resetWith Params.default

end Sys2Proof.Machine
end

