-- ==== Sys2Proof/Machine/Ops.lean ====
section
/-! DEFINITION. The named operations over the two banks of registers, the table and the inputs. Every
read and write of the spec's arrays goes through here (rule R11). The block takes no exception and
returns from none (rules R170, R174, R175), so there is no operation for either. -/

namespace Sys2Proof.Machine

/-- The value of one channel. -/
def Rgb.get {α : Type} (x : Rgb α) : Channel → α
  | .red => x.red
  | .green => x.green
  | .blue => x.blue

/-- The same function on each channel. -/
def Rgb.map {α β : Type} (f : α → β) (x : Rgb α) : Rgb β := ⟨f x.red, f x.green, f x.blue⟩

/-! ## Parameters as the state carries them (rules R6, R51, R54) -/

/-- `PIXEL_COUNT`. -/
def State.pixelCount (s : State) : Nat := s.pixels.length

/-- `RAMP_UNITS`. -/
def State.rampUnits (s : State) : Nat := s.units.length

/-- The parameters of the block (rule R6). -/
def State.params (s : State) : Params :=
  { pixelCount := s.pixelCount, lut := s.lut, rampUnits := s.rampUnits }

/-- `MAX_INTENSITY` (rule R51). -/
def State.maxIntensity (s : State) : Nat := s.params.maxIntensity

/-- `M` (rule R54). -/
def State.modulus (s : State) : Nat := s.params.modulus

/-- `LutRead(i) = LUT[i]` (rule R12), written only where `i ≤ MAX_INTENSITY`. -/
def State.lutRead (s : State) (i : Nat) : Byte := s.lut.getD i 0

/-! ## The pixel bank (rules R21, R25) -/

/-- Pixel `p`; asked only where `p < PIXEL_COUNT`. -/
def State.pixel (s : State) (p : Nat) : Pixel := s.pixels.getD p Pixel.zero

/-- Pixel `p` replaced. -/
def State.setPixel (s : State) (p : Nat) (x : Pixel) : State := { s with pixels := s.pixels.set p x }

/-- `DUTY[p][c]`. -/
def State.duty (s : State) (p : Nat) (c : Channel) : Byte := (s.pixel p).duty.get c

/-- `OUT[p][c]`, true = on. -/
def State.out (s : State) (p : Nat) (c : Channel) : Bool := (s.pixel p).out.get c

/-! ## The ramp units (rules R26 to R30) -/

/-- Ramp unit `u`; asked only where `u < RAMP_UNITS`. -/
def State.rampUnit (s : State) (u : Nat) : RampUnit := s.units.getD u RampUnit.zero

/-- Ramp unit `u` replaced. -/
def State.setRampUnit (s : State) (u : Nat) (x : RampUnit) : State :=
  { s with units := s.units.set u x }

/-- `RB[u]`. -/
def State.rb (s : State) (u : Nat) : Byte := (s.rampUnit u).rb

/-- `RV[u]`. -/
def State.rv (s : State) (u : Nat) : Byte := (s.rampUnit u).rv

/-- `RD[u]`. -/
def State.rd (s : State) (u : Nat) : Direction := (s.rampUnit u).rd

/-- `RC[u]`. -/
def State.rc (s : State) (u : Nat) : Bool := (s.rampUnit u).rc

/-! ## Reset (rules R41, R190, R191) -/

/-- Reset: every piece of state zero; the parameters, and what the outside will present at later
edges, untouched. -/
def State.resetBlock (s : State) : State :=
  { s with
    pixels := List.replicate s.pixelCount Pixel.zero
    cnt := 0
    units := List.replicate s.rampUnits RampUnit.zero }

/-! ## Inputs (rules R13, R39) -/

/-- An edge at which nothing is presented (rule R72). -/
def EdgeInput.idle : EdgeInput := { rst := false, pwmTick := false, cmdValid := false, cmd := 0 }

/-- What the block samples at the next edge; nothing when no more inputs are given (log entry 4). -/
def State.nextInput (s : State) : EdgeInput := s.inputs.headD EdgeInput.idle

/-- The state once the next sample is taken. -/
def State.dropInput (s : State) : State := { s with inputs := s.inputs.tail }

/-- The edge that presents an operation word and nothing else (rules R70, R80). -/
def EdgeInput.ofWord : OpWord → EdgeInput
  | .command w => { rst := false, pwmTick := false, cmdValid := true, cmd := w }
  | .tick level => { rst := false, pwmTick := level, cmdValid := false, cmd := 0 }

/-! ## Sequencing -/

/-- Go on from a next state; a stop stays a stop. -/
def andThen (o : Host.Outcome State Fault Refusal)
    (f : State → Host.Outcome State Fault Refusal) : Host.Outcome State Fault Refusal :=
  match o with
  | .next s => f s
  | .fault r => .fault r
  | .refused r => .refused r

end Sys2Proof.Machine
end

