-- ==== Sys2Proof/Machine/Operands.lean ====
section
/-! DEFINITION. How an operation reads its operands: the channel numbers of rule R22, the index and
range tests of rules R101, R132 and R133, the step-size condition of rule R102, and what a channel
operand of SETI stores. Every operand is an unsigned number (rule R74). -/

namespace Sys2Proof.Machine

/-- 0 = red, 1 = green, 2 = blue (rule R22). -/
def channelIndex : Channel → Nat
  | .red => 0
  | .green => 1
  | .blue => 2

/-- `p < PIXEL_COUNT`: the pixel operand names a pixel (rule R133). -/
def State.hasPixel (s : State) (p : Nat) : Bool := decide (p < s.pixelCount)

/-- `u < RAMP_UNITS`: the unit operand names a unit (rule R101). -/
def State.hasUnit (s : State) (u : Nat) : Bool := decide (u < s.rampUnits)

/-- `v ≤ MAX_INTENSITY`: the intensity operand is in range (rule R132). -/
def State.inRange (s : State) (v : Nat) : Bool := decide (v ≤ s.maxIntensity)

/-- `sz ≤ RB[u] + 1`, the sum on the naturals: a step of this size has a meaning (rule R102). -/
def State.stepSizeOk (s : State) (u sz : Nat) : Bool := decide (sz ≤ (s.rb u).toNat + 1)

/-- What a channel holds after a SETI that gives it operand `v`: the table's entry where `v` is in
range, else the value it had (rules R131, R132). -/
def State.channelAfter (s : State) (v : Nat) (old : Byte) : Byte :=
  if s.inRange v then s.lutRead v else old

/-- What RINIT loads: its three operands, and `RC` cleared (rule R103). -/
def loadedUnit (bound value : Nat) (dir : Direction) : RampUnit :=
  { rb := byteOf bound, rv := byteOf value, rd := dir, rc := false }

end Sys2Proof.Machine
end

