-- ==== Sys2Proof/Machine/Flags.lean ====
section
/-! DEFINITION. The computed results of the block: the pure functions `RampStep` and `RampUp` of rules
R110 and R116, which give the value and the two flag-like bits `RD` and `RC` (rule R32), and the
comparison and counter advance of rule R140. All sums are on the naturals (rules R7, R10). -/

namespace Sys2Proof.Machine

/-- `(D', V', cc)`: what one ramp step writes to `RD`, `RV` and `RC`. -/
structure RampResult where
  dir : Direction
  value : Nat
  completed : Bool
  deriving DecidableEq, Repr

/-- A rising step: add, and turn on reaching the bound; past the bound, clamp to it and turn. It never
reports completion (rule R110). -/
def rampStepRising (bound value sz : Nat) : RampResult :=
  if value + sz ≤ bound then
    { dir := if value + sz = bound then .falling else .rising, value := value + sz, completed := false }
  else { dir := .falling, value := bound, completed := false }

/-- A falling step: subtract, and on reaching 0 turn and report; below 0, clamp to it, turn and report
(rule R110). -/
def rampStepFalling (value sz : Nat) : RampResult :=
  if sz ≤ value then
    if value - sz = 0 then { dir := .rising, value := value - sz, completed := true }
    else { dir := .falling, value := value - sz, completed := false }
  else { dir := .rising, value := 0, completed := true }

/-- `RampStep(B, D, V, s)` of rule R110. -/
def rampStep (bound : Nat) (dir : Direction) (value sz : Nat) : RampResult :=
  match dir with
  | .rising => rampStepRising bound value sz
  | .falling => rampStepFalling value sz

/-- `V'` of `RampUp(B, V, s)`: past the bound it wraps to 0, the overshoot discarded (rule R116). -/
def rampUpValue (bound value sz : Nat) : Nat := if value + sz ≤ bound then value + sz else 0

/-- `wrapped` of `RampUp(B, V, s)` (rule R116). -/
def rampUpWraps (bound value sz : Nat) : Bool := decide (bound < value + sz)

/-- The counter value a PWM step compares against: the one from before the step (rule R140; log
entry 9). -/
def State.comparedCount (s : State) : Nat := s.cnt.toNat

/-- On exactly when the compared count is below the stored length (rule R140). -/
def laneOn (count : Nat) (length : Byte) : Bool := decide (count < length.toNat)

/-- The counter after a PWM step: it runs 0 .. M-1 (rule R140; log entry 9). -/
def State.nextCount (s : State) : Byte :=
  if s.cnt.toNat + 1 = s.modulus then 0 else byteOf (s.cnt.toNat + 1)

end Sys2Proof.Machine
end

