-- ==== Sys2Proof/Machine/Ramp.lean ====
section
/-! DEFINITION. The ramp unit operations RINIT, RSTEP and RUP (40_ramp.md). -/

namespace Sys2Proof.Machine

/-- `RINIT u, bound, value, dir` (rule R103): load the unit and clear its result; ignored where the unit
does not exist or the value is above the bound. -/
def execRinit (u bound value : Nat) (dir : Direction) (s : State) :
    Host.Outcome State Fault Refusal :=
  if s.hasUnit u then
    if value ≤ bound then .next (s.setRampUnit u (loadedUnit bound value dir)) else .next s
  else .next s

/-- The unit once a ramp step's result is written: `RB` as it was (rules R27, R110). -/
def RampUnit.stepped (x : RampUnit) (r : RampResult) : RampUnit :=
  { x with rv := byteOf r.value, rd := r.dir, rc := r.completed }

/-- The unit once a `rampUp` is written: `RB` and `RD` as they were (rules R27, R116). -/
def RampUnit.raised (x : RampUnit) (value : Nat) (wrapped : Bool) : RampUnit :=
  { x with rv := byteOf value, rc := wrapped }

/-- `RSTEP u, s` (rule R110): one step of the unit; ignored where the unit does not exist (rule R101),
refused where the step size has no meaning (rule R102, U1). -/
def execRstep (u sz : Nat) (s : State) : Host.Outcome State Fault Refusal :=
  if s.hasUnit u then
    if s.stepSizeOk u sz then
      .next (s.setRampUnit u ((s.rampUnit u).stepped
        (rampStep (s.rb u).toNat (s.rd u) (s.rv u).toNat sz)))
    else .refused .stepSizeAboveBound
  else .next s

/-- `RUP u, s` (rule R116): one `rampUp` of the unit; ignored where the unit does not exist (rule R101),
refused where the step size has no meaning (rule R102, U1). -/
def execRup (u sz : Nat) (s : State) : Host.Outcome State Fault Refusal :=
  if s.hasUnit u then
    if s.stepSizeOk u sz then
      .next (s.setRampUnit u ((s.rampUnit u).raised
        (rampUpValue (s.rb u).toNat (s.rv u).toNat sz)
        (rampUpWraps (s.rb u).toNat (s.rv u).toNat sz)))
    else .refused .stepSizeAboveBound
  else .next s

end Sys2Proof.Machine
end

