-- ==== Sys2Proof/Machine/Renderer.lean ====
section
/-! DEFINITION. The renderer operations SETI and PWMSTEP (41_renderer.md). -/

namespace Sys2Proof.Machine

/-- The lengths of a pixel after a SETI of it: each channel by its own operand (rules R131, R132). -/
def State.lengthsAfter (s : State) (r g b : Nat) (old : Rgb Byte) : Rgb Byte :=
  ⟨s.channelAfter r old.red, s.channelAfter g old.green, s.channelAfter b old.blue⟩

/-- `SETI p, r, g, b` (rule R131): store the table's lengths of the in-range channels of pixel `p`;
ignored where the pixel does not exist (rule R133). -/
def execSeti (p r g b : Nat) (s : State) : Host.Outcome State Fault Refusal :=
  if s.hasPixel p then
    .next (s.setPixel p
      { s.pixel p with duty := s.lengthsAfter r g b (s.pixel p).duty })
  else .next s

/-- A pixel after a PWM step: each output by its own length against the one count (rules R140, R141). -/
def Pixel.compare (count : Nat) (x : Pixel) : Pixel := { x with out := x.duty.map (laneOn count) }

/-- `PWMSTEP` (rule R140): every output compared, then the counter advanced, together. -/
def execPwmstep (s : State) : Host.Outcome State Fault Refusal :=
  .next { s with pixels := s.pixels.map (Pixel.compare s.comparedCount), cnt := s.nextCount }

end Sys2Proof.Machine
end

