-- ==== Sys2Proof/Machine/System.lean ====
section
/-! DEFINITION. NOP and the rejected carriers (42_nop_reserved.md). The block has no other system
operation: no environment call, no return from a trap, nothing privileged (rule R162). -/

namespace Sys2Proof.Machine

/-- `NOP` (rule R160): no state is read, no state is written. -/
def execNop (s : State) : Host.Outcome State Fault Refusal := .next s

/-- A carrier the decoder rejects: a reserved word executes exactly as NOP and is reported nowhere
(rules R75, R161); a tick pin at 0 is no operation (rule R78). -/
def execRejected (_why : DecodeReject) (s : State) : Host.Outcome State Fault Refusal := .next s

end Sys2Proof.Machine
end

