-- ==== Sys2Proof/Machine/Dispatch.lean ====
section
/-! DEFINITION. The meaning of each instruction, one arm per constructor. -/

namespace Sys2Proof.Machine

def exec (i : Instr) (s : State) : Host.Outcome State Fault Refusal :=
  match i with
  | .nop => Sys2Proof.Machine.execNop s
  | .seti p r g b => Sys2Proof.Machine.execSeti p r g b s
  | .rinit u bound value dir => Sys2Proof.Machine.execRinit u bound value dir s
  | .rstep u sz => Sys2Proof.Machine.execRstep u sz s
  | .rup u sz => Sys2Proof.Machine.execRup u sz s
  | .pwmstep => Sys2Proof.Machine.execPwmstep s

end Sys2Proof.Machine
end

