-- ==== Sys2Proof/Machine/Edge.lean ====
section
/-! DEFINITION. What one clock edge does (rule R72), and the running of a sequence of edges or of
operations, in the words statements use. -/

namespace Sys2Proof.Machine

/-- Decode a carrier and run what it carries. -/
def runWord (w : OpWord) (s : State) : Host.Outcome State Fault Refusal :=
  match decode w with
  | .op i => exec i s
  | .rejected why => execRejected why s

/-- The command half of an edge: the word is not looked at when `cmd_valid = 0` (rule R72). -/
def commandPart (e : EdgeInput) (s : State) : Host.Outcome State Fault Refusal :=
  if e.cmdValid then runWord (.command e.cmd) s else .next s

/-- `edge(rst, pwm_tick, cmd_valid, cmd)` of rule R72: reset and nothing else, or the PWM step and then
the command. -/
def clockEdge (e : EdgeInput) (s : State) : Host.Outcome State Fault Refusal :=
  if e.rst then .next s.resetBlock
  else andThen (runWord (.tick e.pwmTick) s) (commandPart e)

/-- The edges of an input sequence, in order, from a given state (rules R13, R62). -/
def runEdges : List EdgeInput → State → Host.Outcome State Fault Refusal
  | [], s => .next s
  | e :: es, s => andThen (clockEdge e s) (runEdges es)

/-- Operations in order, one after another. -/
def execAll : List Instr → State → Host.Outcome State Fault Refusal
  | [], s => .next s
  | i :: is, s => andThen (exec i s) (execAll is)

/-- The state with the sample of the next edge set to `e`; the samples of the later edges stay. -/
def State.presentNext (s : State) (e : EdgeInput) : State := { s with inputs := e :: s.inputs.tail }

end Sys2Proof.Machine
end

