-- ==== Sys2Proof/Machine/Step.lean ====
section
/-! DEFINITION. One step of the machine: one rising edge of `clk` (rule R13), with the inputs the host
and the tick source present at it. -/

namespace Sys2Proof.Machine

/-- One clock edge: sample the next input, then rule R72. -/
def step (s : State) : Host.Outcome State Fault Refusal := clockEdge s.nextInput s.dropInput

/-- The state at whose next edge the host presents exactly the instruction of the table's bits `w`: a
command word with `cmd_valid = 1`, or, for a row of one byte or less, the tick pin. -/
def State.withFetchWord (s : State) (nbits w : Nat) : State :=
  s.presentNext (EdgeInput.ofWord (tableWord nbits w))

end Sys2Proof.Machine
end

