-- ==== Sys2Proof/Machine/Listing.lean ====
section
/-! DEFINITION. What the listing lines of rules R80 and R81 present at the clock edges. -/

namespace Sys2Proof.Machine

/-- `RESET`: the other pins may have any value (rule R80); the model's line has them at 0 (log entry
12). -/
def EdgeInput.reset : EdgeInput := { rst := true, pwmTick := false, cmdValid := false, cmd := 0 }

/-- `TICK`. -/
def EdgeInput.tick : EdgeInput := EdgeInput.ofWord (.tick true)

/-- The edge that presents an instruction alone. -/
def EdgeInput.ofInstr (i : Instr) : EdgeInput := EdgeInput.ofWord (encode i)

/-- `TICK + <command>`: the same edge with the tick asserted too. -/
def EdgeInput.withTick (e : EdgeInput) : EdgeInput := { e with pwmTick := true }

/-- An operand of 255 leaves its channel alone wherever `MAX_INTENSITY < 255` (rules R81, R132). -/
def outOfRangeOperand : Nat := 255

/-- `SETC p, c, v` as the SETI it stands for (rule R81). -/
def setcInstr (p : Nat) (c : Channel) (v : Nat) : Instr :=
  match c with
  | .red => .seti p v outOfRangeOperand outOfRangeOperand
  | .green => .seti p outOfRangeOperand v outOfRangeOperand
  | .blue => .seti p outOfRangeOperand outOfRangeOperand v

/-- The edges of one line (rules R80, R81). -/
def lineEdges : Line → List EdgeInput
  | .reset => [EdgeInput.reset]
  | .idle => [EdgeInput.idle]
  | .tick => [EdgeInput.tick]
  | .command i => [EdgeInput.ofInstr i]
  | .tickWith i => [(EdgeInput.ofInstr i).withTick]
  | .word w => [EdgeInput.ofWord (.command (BitVec.ofNat 40 w))]
  | .ticks n => List.replicate n EdgeInput.tick
  | .idles n => List.replicate n EdgeInput.idle
  | .rset u bound => [EdgeInput.ofInstr (.rinit u bound 0 .rising)]
  | .setc p c v => [EdgeInput.ofInstr (setcInstr p c v)]

/-- A listing, line by line. -/
def listingEdges (lines : List Line) : List EdgeInput := lines.flatMap lineEdges

end Sys2Proof.Machine
end

