-- ==== Sys2Proof/Machine/Ports.lean ====
section
/-! DEFINITION. The output ports of rule R40, each a projection of the state after the latest edge.
`DUTY`, `CNT`, `RB` and `LUT` are on no port (rule R19). -/

namespace Sys2Proof.Machine

/-- The lanes in port order: lane `3*p + c` is `OUT[p][c]` (rule R40). -/
def outLanes : List Pixel → List Bool
  | [] => []
  | x :: xs => x.out.red :: x.out.green :: x.out.blue :: outLanes xs

/-- A number whose bit `i` is entry `i` of the list. -/
def numberOfBits : List Bool → Nat
  | [] => 0
  | x :: xs => x.toNat + 2 * numberOfBits xs

/-- The port `out`, `3*PIXEL_COUNT` bits. -/
def State.outPort (s : State) : BitVec (3 * s.pixelCount) :=
  BitVec.ofNat (3 * s.pixelCount) (numberOfBits (outLanes s.pixels))

/-- The port `ramp_value[u]`, 8 bits. -/
def State.rampValuePort (s : State) (u : Nat) : Byte := s.rv u

/-- The port `ramp_dir[u]`, 1 bit: 0 = rising, 1 = falling (rule R29). -/
def State.rampDirPort (s : State) (u : Nat) : BitVec 1 := BitVec.ofBool (s.rd u).toBit

/-- The port `ramp_cc[u]`, 1 bit. -/
def State.rampCcPort (s : State) (u : Nat) : BitVec 1 := BitVec.ofBool (s.rc u)

/-- Everything the host can read back (rule R19), as one value, so that two states can be compared as
the host sees them. -/
structure Outputs where
  out : List Bool
  ramps : List (Byte × Direction × Bool)
  deriving DecidableEq, Repr

/-- The outputs of a state (rules R19, R40). -/
def State.outputs (s : State) : Outputs :=
  { out := outLanes s.pixels, ramps := s.units.map fun x => (x.rv, x.rd, x.rc) }

end Sys2Proof.Machine
end

