-- ==== Sys2Proof/Safety.lean ====
section
/-! DEFINITION. What a sound state and a safe run are, in the terms statements use: the invariants the
spec gives the state, the one duty the host has, and counts along an input sequence. -/

namespace Sys2Proof.Machine

/-! ## The invariants of the state -/

/-- A stored length is 0, never overwritten, or an entry of the table (rule R23). -/
abbrev lengthFromTable (lut : List Byte) (d : Byte) : Prop := d = 0 ∨ d ∈ lut

/-- The invariant of `DUTY` (rule R23). -/
abbrev State.DutyFromTable (s : State) : Prop :=
  ∀ x ∈ s.pixels, lengthFromTable s.lut x.duty.red ∧ lengthFromTable s.lut x.duty.green ∧
    lengthFromTable s.lut x.duty.blue

/-- `CNT` always holds a value in `0 .. M-1` (rule R24). -/
abbrev State.CountBelowModulus (s : State) : Prop := s.cnt.toNat < s.modulus

/-- The invariant of the ramp units, `RV[u] ≤ RB[u]` (rule R31). -/
abbrev State.ValuesWithinBounds (s : State) : Prop := ∀ x ∈ s.units, x.rv.toNat ≤ x.rb.toNat

/-- Legal parameters (rules R6, R52 to R54) and the three invariants of the state. -/
abbrev State.Inv (s : State) : Prop :=
  s.params.Legal ∧ s.DutyFromTable ∧ s.CountBelowModulus ∧ s.ValuesWithinBounds

/-! ## The host's duty (rules R19, R102, R202) -/

/-- The instruction does not break the host's duty: a ramp operation on an existing unit keeps its step
size within the bound plus one; nothing else is owed (rule R19). -/
def instrKeepsDuty (i : Instr) (s : State) : Bool :=
  match i with
  | .nop => true
  | .seti _ _ _ _ => true
  | .rinit _ _ _ _ => true
  | .rstep u sz => !s.hasUnit u || s.stepSizeOk u sz
  | .rup u sz => !s.hasUnit u || s.stepSizeOk u sz
  | .pwmstep => true

/-- What the edge's inputs ask of the host's duty: nothing at a reset edge or where no command is
presented, and nothing for a reserved word. -/
def edgeKeepsDuty (e : EdgeInput) (s : State) : Bool :=
  if e.rst then true
  else if e.cmdValid then
    match decode (.command e.cmd) with
    | .op i => instrKeepsDuty i s
    | .rejected _ => true
  else true

/-- The host keeps its duty at the next edge. -/
def State.hostDutyMet (s : State) : Bool := edgeKeepsDuty s.nextInput s

/-! ## Reserved words (rule R75) -/

/-- The word is reserved: its `op` is unassigned, or a must-be-zero field of rule R73 is not zero. Said
on the bits of the word, without the decoder. -/
abbrev reservedWord (w : CmdWord) : Prop :=
  (0x2 ≤ (w.extractLsb 39 36).toNat ∧ (w.extractLsb 39 36).toNat ≤ 0x7) ∨
  0xB ≤ (w.extractLsb 39 36).toNat ∨
  (w.extractLsb 39 36 = 0x0 ∧ w.extractLsb 35 0 ≠ 0) ∨
  (w.extractLsb 39 36 = 0x1 ∧ w.extractLsb 35 32 ≠ 0) ∨
  (w.extractLsb 39 36 = 0x8 ∧ (w.extractLsb 15 9 ≠ 0 ∨ w.extractLsb 7 0 ≠ 0)) ∨
  (w.extractLsb 39 36 = 0x9 ∧ w.extractLsb 23 0 ≠ 0) ∨
  (w.extractLsb 39 36 = 0xA ∧ w.extractLsb 23 0 ≠ 0)

/-! ## Frames (rule R37) -/

/-- Nothing but the registers of unit `u` differs. -/
abbrev OnlyUnitChanged (u : Nat) (s t : State) : Prop :=
  t.lut = s.lut ∧ t.pixels = s.pixels ∧ t.cnt = s.cnt ∧ t.inputs = s.inputs ∧
    t.rampUnits = s.rampUnits ∧ ∀ v, v ≠ u → t.rampUnit v = s.rampUnit v

/-- Nothing but the stored lengths of pixel `p` differs. -/
abbrev OnlyLengthsOfPixelChanged (p : Nat) (s t : State) : Prop :=
  t.lut = s.lut ∧ t.units = s.units ∧ t.cnt = s.cnt ∧ t.inputs = s.inputs ∧
    t.pixelCount = s.pixelCount ∧ (∀ q c, t.out q c = s.out q c) ∧
    ∀ q c, q ≠ p → t.duty q c = s.duty q c

/-- Nothing but the outputs and the counter differs. -/
abbrev OnlyOutputsAndCountChanged (s t : State) : Prop :=
  t.lut = s.lut ∧ t.units = s.units ∧ t.inputs = s.inputs ∧ t.pixelCount = s.pixelCount ∧
    ∀ q c, t.duty q c = s.duty q c

/-! ## Counts along an input sequence -/

/-- No edge of the sequence is a reset edge. -/
def noReset (es : List EdgeInput) : Bool := es.all fun e => !e.rst

/-- How many PWM steps an input sequence without reset does: one per edge with the tick asserted (rules
R78, R147). -/
def tickCount (es : List EdgeInput) : Nat := es.countP fun e => e.pwmTick

/-- How many PWM steps of the sequence set `OUT[p][c]` on (rule R143). -/
def onSteps (p : Nat) (c : Channel) : List EdgeInput → State → Nat
  | [], _ => 0
  | e :: es, s =>
    match clockEdge e s with
    | .next t => (e.pwmTick && t.out p c).toNat + onSteps p c es t
    | .fault _ => 0
    | .refused _ => 0

/-- `DUTY[p][c]` is `d` before every edge of the sequence (rule R143's condition). -/
def dutyStays (p : Nat) (c : Channel) (d : Byte) : List EdgeInput → State → Bool
  | [], _ => true
  | e :: es, s =>
    decide (s.duty p c = d) &&
      match clockEdge e s with
      | .next t => dutyStays p c d es t
      | .fault _ => true
      | .refused _ => true

end Sys2Proof.Machine
end

