-- ==== Sys2Proof/Certificates/Slice0/Obligations.lean ====
section
/-! DEFINITION. The statements for the provers. -/

open Sys2Proof Sys2Proof.Machine

/-! ## Encoding (30_encoding.md) -/

/-- Decoding the encoding of a well-formed instruction gives it back: no operand bit is dropped. -/
def Obligations.DecodeEncodeAgree : Prop := ∀ i : Instr, i.WellFormed → decode (encode i) = .op i

/-- Every carrier that decodes to an instruction is the encoding of that instruction, which is
well-formed: no two carriers mean the same instruction. -/
def Obligations.EncodeDecodeAgree : Prop :=
  ∀ (w : OpWord) (i : Instr), decode w = .op i → i.WellFormed ∧ encode i = w

/-- Rule R73's opcode map: a word is the command of a row exactly when its masked bits match, and then
its operands are the row's fields; a word that matches no row is rejected. -/
def Obligations.DecodeFollowsTheOpcodeMap : Prop :=
  ∀ w : CmdWord,
    (w &&& 0xFFFFFFFFFF#40 = 0x0000000000#40 ↔ decode (.command w) = .op .nop) ∧
    (w &&& 0xFF00000000#40 = 0x1000000000#40 ↔
      decode (.command w) = .op (.seti (w.extractLsb 31 24).toNat (w.extractLsb 23 16).toNat
        (w.extractLsb 15 8).toNat (w.extractLsb 7 0).toNat)) ∧
    (w &&& 0xF00000FEFF#40 = 0x8000000000#40 ↔
      decode (.command w) = .op (.rinit (w.extractLsb 35 32).toNat (w.extractLsb 31 24).toNat
        (w.extractLsb 23 16).toNat (if w.getLsbD 8 then .falling else .rising))) ∧
    (w &&& 0xF000FFFFFF#40 = 0x9000000000#40 ↔
      decode (.command w) = .op (.rstep (w.extractLsb 35 32).toNat (w.extractLsb 31 24).toNat)) ∧
    (w &&& 0xF000FFFFFF#40 = 0xA000000000#40 ↔
      decode (.command w) = .op (.rup (w.extractLsb 35 32).toNat (w.extractLsb 31 24).toNat)) ∧
    (w &&& 0xFFFFFFFFFF#40 ≠ 0x0000000000#40 → w &&& 0xFF00000000#40 ≠ 0x1000000000#40 →
      w &&& 0xF00000FEFF#40 ≠ 0x8000000000#40 → w &&& 0xF000FFFFFF#40 ≠ 0x9000000000#40 →
      w &&& 0xF000FFFFFF#40 ≠ 0xA000000000#40 → ∃ why, decode (.command w) = .rejected why)

/-- The decoder rejects exactly the words rule R75 calls reserved, said on their bits. -/
def Obligations.RejectedWordsAreTheReservedOnes : Prop :=
  ∀ w : CmdWord, (∃ why, decode (.command w) = .rejected why) ↔ reservedWord w

/-- How many of the 2^40 words each command has (rule R75). -/
def Obligations.CommandWordCounts : Prop :=
  {w : CmdWord | decode (.command w) = .op .nop}.ncard = 1 ∧
  {w : CmdWord | ∃ p r g b, decode (.command w) = .op (.seti p r g b)}.ncard = 2 ^ 32 ∧
  {w : CmdWord | ∃ u bound value dir,
    decode (.command w) = .op (.rinit u bound value dir)}.ncard = 2 ^ 21 ∧
  {w : CmdWord | ∃ u sz, decode (.command w) = .op (.rstep u sz)}.ncard = 2 ^ 12 ∧
  {w : CmdWord | ∃ u sz, decode (.command w) = .op (.rup u sz)}.ncard = 2 ^ 12

/-- Words written out in rule R82 decode to the lines they stand for, the two reserved ones to none. -/
def Obligations.WorkedEncodingsDecode : Prop :=
  decode (.command 0x0000000000) = .op .nop ∧
  decode (.command 0x10003F0020) = .op (.seti 0 63 0 32) ∧
  decode (.command 0x1004020B18) = .op (.seti 4 2 11 24) ∧
  decode (.command 0x1001FFFF0A) = .op (.seti 1 255 255 10) ∧
  decode (.command 0x823F150000) = .op (.rinit 2 63 21 .rising) ∧
  decode (.command 0x813F0A0100) = .op (.rinit 1 63 10 .falling) ∧
  decode (.command 0x9002000000) = .op (.rstep 0 2) ∧
  decode (.command 0xA104000000) = .op (.rup 1 4) ∧
  decode (.command 0x1100000000) = .rejected (.nonzeroUnusedField 0x1) ∧
  decode (.command 0x3000000000) = .rejected (.unassignedOpcode 0x3)

/-! ## The clock edge and the step (rules R72, R190) -/

/-- At an edge without reset the step is the meaning of what the pins carry: a command that decodes, the
tick, or the tick and then the command (rule R72), each on the state whose next input is taken (the
model's choice, log entry 3). -/
def Obligations.StepRunsTheDecodedInstruction : Prop :=
  ∀ (s : State) (e : EdgeInput) (rest : List EdgeInput), s.inputs = e :: rest → e.rst = false →
    (e.pwmTick = false → e.cmdValid = true → ∀ i, decode (.command e.cmd) = .op i →
      step s = exec i { s with inputs := rest }) ∧
    (e.pwmTick = true → e.cmdValid = false → step s = exec .pwmstep { s with inputs := rest }) ∧
    (e.pwmTick = true → e.cmdValid = true → ∀ i, decode (.command e.cmd) = .op i →
      step s = andThen (exec .pwmstep { s with inputs := rest }) (exec i))

/-- A well-formed instruction presented at the next edge is what the step there runs. The list of inputs
in State, and presenting by replacing its head, are the model's choice (log entries 3 and 5). -/
def Obligations.PresentedInstructionRuns : Prop :=
  ∀ (s : State) (i : Instr), i.WellFormed →
    step (s.presentNext (EdgeInput.ofInstr i)) = exec i { s with inputs := s.inputs.tail }

/-- A reset edge leaves every piece of state zero, whatever the other pins carry (rule R41). -/
def Obligations.ResetEdgeZeroesEverything : Prop :=
  ∀ (e : EdgeInput) (s : State), e.rst = true →
    ∃ t, clockEdge e s = .next t ∧ (∀ p c, t.duty p c = 0 ∧ t.out p c = false) ∧ t.cnt = 0 ∧
      (∀ u, t.rb u = 0 ∧ t.rv u = 0 ∧ t.rd u = .rising ∧ t.rc u = false) ∧
      t.params = s.params ∧ t.inputs = s.inputs

/-- The state a run starts from: a block with the parameters it is built with and every piece of state
zero (rule R41). That no input is presented yet is the model's choice (log entry 4), and so are the
parameters at State.reset (log entry 2). -/
def Obligations.ResetStateIsZero : Prop :=
  (∀ P : Params, (State.resetWith P).params = P ∧ (State.resetWith P).inputs = [] ∧
    (State.resetWith P).cnt = 0 ∧
    (∀ p c, (State.resetWith P).duty p c = 0 ∧ (State.resetWith P).out p c = false) ∧
    ∀ u, (State.resetWith P).rampUnit u = ⟨0, 0, .rising, false⟩) ∧
  State.reset = State.resetWith Params.default

/-- With nothing asserted an edge changes nothing, whatever `cmd` carries (rule R72). -/
def Obligations.QuietEdgeChangesNothing : Prop :=
  ∀ (w : CmdWord) (s : State),
    clockEdge { rst := false, pwmTick := false, cmdValid := false, cmd := w } s = .next s

/-- The model's choice (log entry 4): when no more inputs are given, a step changes nothing. -/
def Obligations.NoInputIsAnIdleEdge : Prop := ∀ s : State, s.inputs = [] → step s = .next s

/-- A tick and a command at one edge (rule R72): the command completes there exactly as it does alone,
and the edge gives the outputs and the counter of the PWM step, the lengths and the units of the command,
each as if it alone read the state from before the edge. -/
def Obligations.SharedEdgeLetsBothReadTheOldState : Prop :=
  ∀ (e : EdgeInput) (s s₂ : State), e.rst = false → e.pwmTick = true → e.cmdValid = true →
    clockEdge { e with pwmTick := false } s = .next s₂ →
    ∃ s₁ t, exec .pwmstep s = .next s₁ ∧ clockEdge e s = .next t ∧ t.cnt = s₁.cnt ∧
      (∀ p c, t.out p c = s₁.out p c ∧ t.duty p c = s₂.duty p c) ∧ t.units = s₂.units ∧
      t.params = s.params

/-- Running the machine for as many steps as inputs are given is running the edges in order, and takes
every one of them (rules R13, R62). The inputs held as a list, one to a step, are the model's choice (log
entry 3). -/
def Obligations.RunTakesTheInputsInOrder : Prop :=
  ∀ (es : List EdgeInput) (s : State),
    Sys2Proof.core.run es.length ({ s with inputs := es } : State) =
      runEdges es { s with inputs := [] }

/-- A reserved word executes exactly as NOP, with and without a tick at its edge (rule R161). -/
def Obligations.ReservedWordsExecuteAsNop : Prop :=
  ∀ (w : CmdWord), reservedWord w → ∀ (tick : Bool) (s : State),
    clockEdge { rst := false, pwmTick := tick, cmdValid := true, cmd := w } s =
      clockEdge { rst := false, pwmTick := tick, cmdValid := true, cmd := 0 } s ∧
    clockEdge { rst := false, pwmTick := false, cmdValid := true, cmd := w } s = .next s

/-- `NOP` reads and writes nothing, and its word has the effect of no command (rule R160). -/
def Obligations.NopChangesNothing : Prop :=
  decode (.command 0x0000000000) = .op .nop ∧
  ∀ s : State, exec .nop s = .next s ∧
    ∀ (tick : Bool) (w : CmdWord),
      clockEdge { rst := false, pwmTick := tick, cmdValid := true, cmd := 0x0000000000 } s =
        clockEdge { rst := false, pwmTick := tick, cmdValid := false, cmd := w } s

/-- What the lines of a listing do (rules R80, R81): a command alone, a command with a tick, `n` ticks
(the pin held for `n` edges is `n` PWM steps), `n` idle edges, and RSET as the RINIT it stands for. -/
def Obligations.ListingLinesRunAsWritten : Prop :=
  ∀ (s : State),
    (∀ i, (Line.command i).wellFormed s.maxIntensity = true →
      runEdges (lineEdges (.command i)) s = exec i s ∧
      runEdges (lineEdges (.tickWith i)) s = andThen (exec .pwmstep s) (exec i)) ∧
    (∀ n, runEdges (lineEdges (.ticks n)) s = execAll (List.replicate n .pwmstep) s ∧
      runEdges (lineEdges (.idles n)) s = .next s) ∧
    (∀ u bound, (Line.rset u bound).wellFormed s.maxIntensity = true →
      runEdges (lineEdges (.rset u bound)) s = exec (.rinit u bound 0 .rising) s)

/-! ## Where a step stops (rules R16, R17, R101, R102) -/

/-- Where the host keeps its step-size duty at the next edge the step answers a next state; where it does
not, the step is refused for the step size, and there is no other stop in the machine. That the refusal
takes the whole edge, a tick at it included, is the model's deduction (log entry 7, DEDUCED): rule R102
and U1 say nothing of a tick at the same edge. -/
def Obligations.StepStopsExactlyOnABrokenDuty : Prop :=
  ∀ s : State, (s.hostDutyMet = true → ∃ t, step s = .next t) ∧
    (s.hostDutyMet = false → step s = .refused .stepSizeAboveBound)

/-- A unit index at or above `RAMP_UNITS` makes any of the three ramp operations ignored (rule R101). -/
def Obligations.AbsentUnitIsIgnored : Prop :=
  ∀ (u : Nat) (s : State), s.rampUnits ≤ u →
    (∀ bound value dir, exec (.rinit u bound value dir) s = .next s) ∧
    (∀ sz, exec (.rstep u sz) s = .next s) ∧ ∀ sz, exec (.rup u sz) s = .next s

/-- After reset a ramp step has a meaning only by 0 and by 1 (rule R192). -/
def Obligations.AfterResetOnlyStepsZeroAndOneHaveAMeaning : Prop :=
  ∀ (P : Params) (u sz : Nat), u < P.rampUnits →
    (exec (.rstep u sz) (State.resetWith P) = .refused .stepSizeAboveBound ↔ 2 ≤ sz) ∧
    (exec (.rup u sz) (State.resetWith P) = .refused .stepSizeAboveBound ↔ 2 ≤ sz) ∧
    (sz ≤ 1 → (∃ t, exec (.rstep u sz) (State.resetWith P) = .next t) ∧
      ∃ t, exec (.rup u sz) (State.resetWith P) = .next t)

/-! ## The ramp units (40_ramp.md) -/

/-- Rule R103: RINIT's word, its load of all four registers of the unit and of nothing else, and the two
conditions under which it is ignored. -/
def Obligations.RinitFollowsItsRule : Prop :=
  ∀ (u bound value : Nat) (dir : Direction) (s : State),
    (Instr.rinit u bound value dir).WellFormed →
    decode (.command (0x8#4 ++ BitVec.ofNat 4 u ++ BitVec.ofNat 8 bound ++ BitVec.ofNat 8 value ++
      0#7 ++ BitVec.ofBool (decide (dir = .falling)) ++ 0#8)) = .op (.rinit u bound value dir) ∧
    (s.rampUnits ≤ u → exec (.rinit u bound value dir) s = .next s) ∧
    (bound < value → exec (.rinit u bound value dir) s = .next s) ∧
    (u < s.rampUnits → value ≤ bound → ∃ t, exec (.rinit u bound value dir) s = .next t ∧
      (t.rb u).toNat = bound ∧ (t.rv u).toNat = value ∧ t.rd u = dir ∧ t.rc u = false ∧
      OnlyUnitChanged u s t)

/-- Rule R110: RSTEP's word, the two conditions under which it does no step, and the result in each case
of the pseudocode, with nothing else changed. -/
def Obligations.RstepFollowsItsRule : Prop :=
  ∀ (u sz : Nat) (s : State),
    (u < 16 → sz < 256 → decode (.command (0x9#4 ++ BitVec.ofNat 4 u ++ BitVec.ofNat 8 sz ++ 0#24)) =
      .op (.rstep u sz)) ∧
    (s.rampUnits ≤ u → exec (.rstep u sz) s = .next s) ∧
    (u < s.rampUnits → (s.rb u).toNat + 1 < sz →
      exec (.rstep u sz) s = .refused .stepSizeAboveBound) ∧
    (u < s.rampUnits → sz ≤ (s.rb u).toNat + 1 → ∃ t, exec (.rstep u sz) s = .next t ∧
      t.rb u = s.rb u ∧ OnlyUnitChanged u s t ∧
      (s.rd u = .rising → (s.rv u).toNat + sz < (s.rb u).toNat →
        (t.rv u).toNat = (s.rv u).toNat + sz ∧ t.rd u = .rising ∧ t.rc u = false) ∧
      (s.rd u = .rising → (s.rb u).toNat ≤ (s.rv u).toNat + sz →
        t.rv u = s.rb u ∧ t.rd u = .falling ∧ t.rc u = false) ∧
      (s.rd u = .falling → sz < (s.rv u).toNat →
        (t.rv u).toNat = (s.rv u).toNat - sz ∧ t.rd u = .falling ∧ t.rc u = false) ∧
      (s.rd u = .falling → (s.rv u).toNat ≤ sz →
        t.rv u = 0 ∧ t.rd u = .rising ∧ t.rc u = true))

/-- Rule R111: a value within its bound stays within it, and each new value is one of the four the rule
names, so it fits 8 bits. -/
def Obligations.RstepKeepsTheValueWithinTheBound : Prop :=
  ∀ (u sz : Nat) (s : State), u < s.rampUnits → sz ≤ (s.rb u).toNat + 1 →
    (s.rv u).toNat ≤ (s.rb u).toNat → ∃ t, exec (.rstep u sz) s = .next t ∧
      (t.rv u).toNat ≤ (t.rb u).toNat ∧
      (s.rd u = .rising → (t.rv u).toNat = (s.rv u).toNat + sz ∨ t.rv u = s.rb u) ∧
      (s.rd u = .falling → (t.rv u).toNat + sz = (s.rv u).toNat ∨ t.rv u = 0)

/-- Rule R112: a step of size 0 leaves the value, and turns only at the end it is moving to. -/
def Obligations.RstepBySizeZero : Prop :=
  ∀ (u : Nat) (s : State), u < s.rampUnits → (s.rv u).toNat ≤ (s.rb u).toNat →
    ∃ t, exec (.rstep u 0) s = .next t ∧ t.rv u = s.rv u ∧
      (s.rd u = .rising → (t.rd u = .falling ↔ s.rv u = s.rb u) ∧ t.rc u = false) ∧
      (s.rd u = .falling → (t.rd u = .rising ↔ s.rv u = 0) ∧ (t.rc u = true ↔ s.rv u = 0))

/-- Rule R113: the largest step size allowed takes a rising unit to its bound and a falling one to 0. -/
def Obligations.RstepByBoundPlusOne : Prop :=
  ∀ (u : Nat) (s : State), u < s.rampUnits → (s.rv u).toNat ≤ (s.rb u).toNat →
    ∃ t, exec (.rstep u ((s.rb u).toNat + 1)) s = .next t ∧
      (s.rd u = .rising → t.rv u = s.rb u ∧ t.rd u = .falling ∧ t.rc u = false) ∧
      (s.rd u = .falling → t.rv u = 0 ∧ t.rd u = .rising ∧ t.rc u = true)

/-- Rule R114: a unit at 0 rising with bound `B ≥ 1`, stepped by one size `1 ≤ sz ≤ B + 1`: with
`n = ceil(B/sz)`, in every period of `2*n` steps the value goes up through `min(k*sz, B)` and down
through `max(B - j*sz, 0)`, the direction turns at step `n` and at step `2*n`, and completion is reported
at step `2*n` and at no other. With bound 0 and size 0 or 1 the period is 2. -/
def Obligations.RampCycleLength : Prop :=
  (∀ (u sz n m k : Nat) (s : State), u < s.rampUnits → s.rv u = 0 → s.rd u = .rising →
    1 ≤ (s.rb u).toNat → 1 ≤ sz → sz ≤ (s.rb u).toNat + 1 → n = ((s.rb u).toNat + sz - 1) / sz →
    1 ≤ k → k ≤ 2 * n →
    ∃ t, execAll (List.replicate (2 * n * m + k) (.rstep u sz)) s = .next t ∧ t.rb u = s.rb u ∧
      (t.rv u).toNat =
        (if k ≤ n then min (k * sz) (s.rb u).toNat else (s.rb u).toNat - (k - n) * sz) ∧
      (t.rd u = .rising ↔ (k < n ∨ k = 2 * n)) ∧ (t.rc u = true ↔ k = 2 * n)) ∧
  ∀ (u sz : Nat) (s : State), u < s.rampUnits → s.rb u = 0 → s.rv u = 0 → s.rd u = .rising → sz ≤ 1 →
    ∃ t t', exec (.rstep u sz) s = .next t ∧ t.rv u = 0 ∧ t.rd u = .falling ∧ t.rc u = false ∧
      exec (.rstep u sz) t = .next t' ∧ t'.rv u = 0 ∧ t'.rd u = .rising ∧ t'.rc u = true

/-- Rule R115: a falling step reports completion exactly when it reaches or undershoots 0, whatever came
before: a unit falling at `V ≥ 1` first reports at step `ceil(V/sz)`, one falling at 0 at its first. -/
def Obligations.FallingUnitCompletesAfterItsDescent : Prop :=
  ∀ (u sz : Nat) (s : State), u < s.rampUnits → s.rd u = .falling → sz ≤ (s.rb u).toNat + 1 →
    (∃ t, exec (.rstep u sz) s = .next t ∧ (t.rc u = true ↔ (s.rv u).toNat ≤ sz)) ∧
    (1 ≤ sz → ∀ k, 1 ≤ k → k ≤ ((s.rv u).toNat + sz - 1) / sz →
      ∃ t, execAll (List.replicate k (.rstep u sz)) s = .next t ∧
        (t.rc u = true ↔ k = ((s.rv u).toNat + sz - 1) / sz))

/-- Rule R116: RUP's word, the two conditions under which it does no step, and the result in each case,
with the direction and everything else unchanged. -/
def Obligations.RupFollowsItsRule : Prop :=
  ∀ (u sz : Nat) (s : State),
    (u < 16 → sz < 256 → decode (.command (0xA#4 ++ BitVec.ofNat 4 u ++ BitVec.ofNat 8 sz ++ 0#24)) =
      .op (.rup u sz)) ∧
    (s.rampUnits ≤ u → exec (.rup u sz) s = .next s) ∧
    (u < s.rampUnits → (s.rb u).toNat + 1 < sz →
      exec (.rup u sz) s = .refused .stepSizeAboveBound) ∧
    (u < s.rampUnits → sz ≤ (s.rb u).toNat + 1 → ∃ t, exec (.rup u sz) s = .next t ∧
      t.rb u = s.rb u ∧ t.rd u = s.rd u ∧ OnlyUnitChanged u s t ∧
      ((s.rv u).toNat + sz ≤ (s.rb u).toNat →
        (t.rv u).toNat = (s.rv u).toNat + sz ∧ t.rc u = false) ∧
      ((s.rb u).toNat < (s.rv u).toNat + sz → t.rv u = 0 ∧ t.rc u = true))

/-- From 0, with step size `1 ≤ sz ≤ B + 1`, RUP wraps at every `(floor(B/sz) + 1)`-th step and at no
other, and between wraps the value is the multiple of the size (rule R116's corner cases). -/
def Obligations.RupWrapPeriod : Prop :=
  ∀ (u sz n m k : Nat) (s : State), u < s.rampUnits → s.rv u = 0 → 1 ≤ sz →
    sz ≤ (s.rb u).toNat + 1 → n = (s.rb u).toNat / sz + 1 → 1 ≤ k → k ≤ n →
    ∃ t, execAll (List.replicate (n * m + k) (.rup u sz)) s = .next t ∧ t.rb u = s.rb u ∧
      t.rd u = s.rd u ∧ (t.rv u).toNat = (if k = n then 0 else k * sz) ∧ (t.rc u = true ↔ k = n)

/-- Rule R117: a RUP between two RSTEPs leaves the direction, and the next RSTEP moves the value that way
from where the RUP left it, never against it. -/
def Obligations.RstepAfterRupKeepsTheDirection : Prop :=
  ∀ (u a b : Nat) (s : State), u < s.rampUnits → a ≤ (s.rb u).toNat + 1 → b ≤ (s.rb u).toNat + 1 →
    ∃ t t', exec (.rup u a) s = .next t ∧ exec (.rstep u b) t = .next t' ∧ t.rd u = s.rd u ∧
      (s.rd u = .rising → (t.rv u).toNat ≤ (t'.rv u).toNat) ∧
      (s.rd u = .falling → (t'.rv u).toNat ≤ (t.rv u).toNat)

/-! ## The renderer (41_renderer.md) -/

/-- Rule R131: SETI's word, what it stores in each channel of its pixel and that it changes nothing else,
and that a pixel which does not exist makes it ignored. -/
def Obligations.SetiFollowsItsRule : Prop :=
  ∀ (p r g b : Nat) (s : State),
    (p < 256 → r < 256 → g < 256 → b < 256 →
      decode (.command (0x10#8 ++ BitVec.ofNat 8 p ++ BitVec.ofNat 8 r ++ BitVec.ofNat 8 g ++
        BitVec.ofNat 8 b)) = .op (.seti p r g b)) ∧
    (s.pixelCount ≤ p → exec (.seti p r g b) s = .next s) ∧
    (p < s.pixelCount → ∃ t, exec (.seti p r g b) s = .next t ∧
      t.duty p .red = (if r ≤ s.maxIntensity then s.lutRead r else s.duty p .red) ∧
      t.duty p .green = (if g ≤ s.maxIntensity then s.lutRead g else s.duty p .green) ∧
      t.duty p .blue = (if b ≤ s.maxIntensity then s.lutRead b else s.duty p .blue) ∧
      OnlyLengthsOfPixelChanged p s t)

/-- SETI is idempotent (rule R60): the same SETI twice leaves the state the first left. -/
def Obligations.SetiTwiceIsSetiOnce : Prop :=
  ∀ (p r g b : Nat) (s t : State), exec (.seti p r g b) s = .next t →
    exec (.seti p r g b) t = .next t

/-- The line SETC writes its one channel, where the value is in range, and leaves everything else (rule
R81): 255 is out of range wherever the assembler accepts the line. -/
def Obligations.SetcWritesOneChannel : Prop :=
  ∀ (p v : Nat) (c : Channel) (s : State), (Line.setc p c v).wellFormed s.maxIntensity = true →
    p < s.pixelCount → ∃ t, runEdges (lineEdges (.setc p c v)) s = .next t ∧
      t.duty p c = (if v ≤ s.maxIntensity then s.lutRead v else s.duty p c) ∧
      (∀ c', c' ≠ c → t.duty p c' = s.duty p c') ∧ OnlyLengthsOfPixelChanged p s t

/-- Rule R140: PWMSTEP's carrier, every output compared with the count from before the step, the count
advanced, and nothing else changed. -/
def Obligations.PwmstepFollowsItsRule : Prop :=
  decode (.tick true) = .op .pwmstep ∧
  ∀ s : State, ∃ t, exec .pwmstep s = .next t ∧ OnlyOutputsAndCountChanged s t ∧
    (∀ p c, p < s.pixelCount → (t.out p c = true ↔ s.cnt.toNat < (s.duty p c).toNat)) ∧
    (s.CountBelowModulus →
      t.cnt.toNat = if s.cnt.toNat + 1 = s.modulus then 0 else s.cnt.toNat + 1)

/-- The counter's course (rule R142): whatever commands come between, after a sequence without reset the
counter has advanced by the number of ticks, modulo `M`. -/
def Obligations.CounterCountsTheTicks : Prop :=
  ∀ (es : List EdgeInput) (s t : State), s.CountBelowModulus → noReset es = true →
    runEdges es s = .next t → t.cnt.toNat = (s.cnt.toNat + tickCount es) % s.modulus

/-- On-time over a period (rule R143): while the length of a lane stays what it is, exactly that many of
any `M` consecutive PWM steps set the lane's output on, whatever commands come between. -/
def Obligations.OnTimeOverAPeriodIsTheLength : Prop :=
  ∀ (es : List EdgeInput) (s t : State) (p : Nat) (c : Channel), s.Inv → noReset es = true →
    tickCount es = s.modulus → runEdges es s = .next t →
    dutyStays p c (s.duty p c) es s = true → onSteps p c es s = (s.duty p c).toNat

/-- Monotone brightness (rule R144): a channel set to the larger intensity is on for at least as many
steps of a period, and at one PWM step the lane with the larger length is on if the other is. -/
def Obligations.BrighterIsOnAtLeastAsLong : Prop :=
  (∀ (p v₁ v₂ : Nat) (c : Channel) (s t₁ t₂ : State), s.Inv → p < s.pixelCount → v₁ < v₂ →
    v₂ ≤ s.maxIntensity → exec (setcInstr p c v₁) s = .next t₁ →
    exec (setcInstr p c v₂) s = .next t₂ →
    onSteps p c (List.replicate s.modulus EdgeInput.tick) t₁ ≤
      onSteps p c (List.replicate s.modulus EdgeInput.tick) t₂) ∧
  ∀ (p q : Nat) (c d : Channel) (s t : State), p < s.pixelCount → q < s.pixelCount →
    (s.duty p c).toNat ≤ (s.duty q d).toNat → exec .pwmstep s = .next t → t.out p c = true →
    t.out q d = true

/-- Rule R146: with modulus 1 the counter is always 0, every table entry is 0 or 1, and an output is on
exactly when its stored length is 1. -/
def Obligations.SmallestModulus : Prop :=
  ∀ s : State, s.Inv → s.modulus = 1 →
    s.cnt = 0 ∧ (∀ i, i ≤ s.maxIntensity → s.lutRead i = 0 ∨ s.lutRead i = 1) ∧
    ∃ t, exec .pwmstep s = .next t ∧ t.cnt = 0 ∧
      ∀ p c, p < s.pixelCount → (t.out p c = true ↔ s.duty p c = 1)

/-- Rule R54: the modulus is the largest entry of the table, and it is at least 1. -/
def Obligations.ModulusIsTheLargestEntry : Prop :=
  ∀ P : Params, P.Legal →
    (∀ i, i ≤ P.maxIntensity → (P.lut.getD i 0).toNat ≤ P.modulus) ∧
    P.modulus = (P.lut.getD P.maxIntensity 0).toNat ∧ 1 ≤ P.modulus

/-- Rule R56: the reference table's entries, its legality and its modulus; with it the default
parameters of rule R6 are legal. -/
def Obligations.ReferenceTableIsLegal : Prop :=
  (∀ i, i < 64 → (refLut.getD i 0).toNat = (255 * i * i + 3968) / 3969) ∧ refLut.length = 64 ∧
    Params.default.Legal ∧ Params.default.maxIntensity = 63 ∧ Params.default.modulus = 255

/-! ## The output ports (rule R40) -/

/-- Rule R40: the port `out` carries lane `3*p + c` in that bit, and the ramp ports carry the value, the
direction and the result of each unit. -/
def Obligations.PortsShowTheState : Prop :=
  ∀ s : State,
    (∀ p c, p < s.pixelCount → s.outPort.getLsbD (3 * p + channelIndex c) = s.out p c) ∧
    ∀ u, s.rampValuePort u = s.rv u ∧ (s.rampDirPort u = 0 ↔ s.rd u = .rising) ∧
      (s.rampCcPort u = 1 ↔ s.rc u = true)

/-- The outputs hold: an edge without reset and without tick leaves `out` (rules R25, R36), and one
without reset and without a command leaves the ramp ports (rules R28, R29, R30 and the matrix of rule
R37: only commands write what they show). -/
def Obligations.OutputsHoldBetweenPwmSteps : Prop :=
  ∀ (e : EdgeInput) (s t : State), e.rst = false → clockEdge e s = .next t →
    (e.pwmTick = false → t.outputs.out = s.outputs.out) ∧
    (e.cmdValid = false → t.outputs.ramps = s.outputs.ramps)

/-- From reset every output stays off under any inputs that present no SETI (rule R192). -/
def Obligations.OutputsStayDarkWithoutSeti : Prop :=
  ∀ (P : Params) (es : List EdgeInput) (t : State),
    (∀ e ∈ es, e.cmdValid = true → ∀ p r g b, decode (.command e.cmd) ≠ .op (.seti p r g b)) →
    runEdges es (State.resetWith P) = .next t → ∀ p c, t.out p c = false

/-! ## What an operation touches (rules R26, R37) -/

/-- Rule R37's matrix, the writes: which operation may change which piece of state. -/
def Obligations.AccessMatrixWrites : Prop :=
  ∀ (i : Instr) (s t : State), exec i s = .next t →
    t.params = s.params ∧ t.inputs = s.inputs ∧
    ((∀ p r g b, i ≠ .seti p r g b) → ∀ p c, t.duty p c = s.duty p c) ∧
    (i ≠ .pwmstep → t.cnt = s.cnt ∧ ∀ p c, t.out p c = s.out p c) ∧
    ((∀ u bound value dir, i ≠ .rinit u bound value dir) →
      (∀ u, t.rb u = s.rb u) ∧
      ((∀ u sz, i ≠ .rstep u sz) → (∀ u, t.rd u = s.rd u) ∧
        ((∀ u sz, i ≠ .rup u sz) → t.units = s.units)))

/-- Rule R37's last sentence: the renderer's state and the ramp units' state are disjoint and no edge
lets one depend on the other. -/
def Obligations.SubBlocksDoNotInteract : Prop :=
  ∀ (e : EdgeInput) (s₁ s₂ t₁ t₂ : State), clockEdge e s₁ = .next t₁ → clockEdge e s₂ = .next t₂ →
    (s₁.lut = s₂.lut → s₁.pixels = s₂.pixels → s₁.cnt = s₂.cnt →
      t₁.pixels = t₂.pixels ∧ t₁.cnt = t₂.cnt) ∧
    (s₁.units = s₂.units → t₁.units = t₂.units)

/-- Rule R26: units share nothing. What an operation leaves in unit `u` depends on unit `u` alone. -/
def Obligations.UnitsShareNothing : Prop :=
  ∀ (i : Instr) (u : Nat) (s₁ s₂ t₁ t₂ : State), s₁.rampUnits = s₂.rampUnits →
    s₁.rampUnit u = s₂.rampUnit u → exec i s₁ = .next t₁ → exec i s₂ = .next t₂ →
    t₁.rampUnit u = t₂.rampUnit u

/-! ## Invariants (rules R23, R24, R31, R191) -/

/-- The reset state meets the invariants; so does the reset state of any block with legal parameters. -/
def Obligations.ResetMeetsTheInvariants : Prop :=
  State.reset.Inv ∧ ∀ P : Params, P.Legal → (State.resetWith P).Inv

/-- Every step keeps the invariants: legal parameters, lengths from the table, the counter below `M`,
values within bounds. -/
def Obligations.StepKeepsTheInvariants : Prop :=
  ∀ s t : State, s.Inv → step s = .next t → t.Inv

/-- Every state a block with legal parameters can reach, under any inputs, meets the invariants and has
the parameters it was built with: the step lemma `StepKeepsTheInvariants` carried along a run. -/
def Obligations.EveryReachableStateIsSound : Prop :=
  ∀ (P : Params) (es : List EdgeInput) (t : State), P.Legal →
    runEdges es (State.resetWith P) = .next t → t.Inv ∧ t.params = P

/-- No step changes a parameter (rules R33, R191). That each step takes one input, and none when none is
given, is the model's choice (log entries 3 and 4). -/
def Obligations.ParametersNeverChange : Prop :=
  ∀ s t : State, step s = .next t → t.params = s.params ∧ t.inputs = s.inputs.tail
end

