-- ==== Sys2Proof/Laws/Decode.lean ====
section
/-! SUPPORT. Format C read back field by field (rule R71). -/

namespace Sys2Proof

variable (op u : BitVec 4) (a b c d : Byte)

@[simp] theorem opField_formatC : opField (formatC op u a b c d) = op := by
  apply BitVec.eq_of_getLsbD_eq; intro i hi; unfold opField formatC; simp; grind

@[simp] theorem unitField_formatC : unitField (formatC op u a b c d) = u := by
  apply BitVec.eq_of_getLsbD_eq; intro i hi; unfold unitField formatC; simp; grind

@[simp] theorem aField_formatC : aField (formatC op u a b c d) = a := by
  apply BitVec.eq_of_getLsbD_eq; intro i hi; unfold aField formatC; simp; grind

@[simp] theorem bField_formatC : bField (formatC op u a b c d) = b := by
  apply BitVec.eq_of_getLsbD_eq; intro i hi; unfold bField formatC; simp; grind

@[simp] theorem cField_formatC : cField (formatC op u a b c d) = c := by
  apply BitVec.eq_of_getLsbD_eq; intro i hi; unfold cField formatC; simp; grind

@[simp] theorem dField_formatC : dField (formatC op u a b c d) = d := by
  apply BitVec.eq_of_getLsbD_eq; intro i hi; unfold dField formatC; simp; grind

/-- Every command word is format C of its own fields. -/
theorem formatC_fields (w : CmdWord) :
    formatC (opField w) (unitField w) (aField w) (bField w) (cField w) (dField w) = w := by
  apply BitVec.eq_of_getLsbD_eq; intro i hi
  simp [opField, unitField, aField, bField, cField, dField, formatC]
  grind

end Sys2Proof
end

