-- ==== Sys2Proof/Laws/State.lean ====
section
/-! SUPPORT. One lemma per field per update of the state, so that no proof unfolds a record update. -/

namespace Sys2Proof.Machine

/-! ## setPixel -/

@[simp] theorem setPixel_lut (s : State) (p : Nat) (x : Pixel) : (s.setPixel p x).lut = s.lut := rfl
@[simp] theorem setPixel_cnt (s : State) (p : Nat) (x : Pixel) : (s.setPixel p x).cnt = s.cnt := rfl
@[simp] theorem setPixel_units (s : State) (p : Nat) (x : Pixel) :
    (s.setPixel p x).units = s.units := rfl
@[simp] theorem setPixel_inputs (s : State) (p : Nat) (x : Pixel) :
    (s.setPixel p x).inputs = s.inputs := rfl
@[simp] theorem setPixel_pixels (s : State) (p : Nat) (x : Pixel) :
    (s.setPixel p x).pixels = s.pixels.set p x := rfl
@[simp] theorem setPixel_rampUnit (s : State) (p : Nat) (x : Pixel) (u : Nat) :
    (s.setPixel p x).rampUnit u = s.rampUnit u := rfl
@[simp] theorem setPixel_lutRead (s : State) (p : Nat) (x : Pixel) (i : Nat) :
    (s.setPixel p x).lutRead i = s.lutRead i := rfl

/-! ## setRampUnit -/

@[simp] theorem setRampUnit_lut (s : State) (u : Nat) (x : RampUnit) :
    (s.setRampUnit u x).lut = s.lut := rfl
@[simp] theorem setRampUnit_cnt (s : State) (u : Nat) (x : RampUnit) :
    (s.setRampUnit u x).cnt = s.cnt := rfl
@[simp] theorem setRampUnit_pixels (s : State) (u : Nat) (x : RampUnit) :
    (s.setRampUnit u x).pixels = s.pixels := rfl
@[simp] theorem setRampUnit_inputs (s : State) (u : Nat) (x : RampUnit) :
    (s.setRampUnit u x).inputs = s.inputs := rfl
@[simp] theorem setRampUnit_units (s : State) (u : Nat) (x : RampUnit) :
    (s.setRampUnit u x).units = s.units.set u x := rfl
@[simp] theorem setRampUnit_pixel (s : State) (u : Nat) (x : RampUnit) (p : Nat) :
    (s.setRampUnit u x).pixel p = s.pixel p := rfl
@[simp] theorem setRampUnit_lutRead (s : State) (u : Nat) (x : RampUnit) (i : Nat) :
    (s.setRampUnit u x).lutRead i = s.lutRead i := rfl

/-! ## dropInput and presentNext -/

@[simp] theorem dropInput_lut (s : State) : s.dropInput.lut = s.lut := rfl
@[simp] theorem dropInput_pixels (s : State) : s.dropInput.pixels = s.pixels := rfl
@[simp] theorem dropInput_cnt (s : State) : s.dropInput.cnt = s.cnt := rfl
@[simp] theorem dropInput_units (s : State) : s.dropInput.units = s.units := rfl
@[simp] theorem dropInput_inputs (s : State) : s.dropInput.inputs = s.inputs.tail := rfl
@[simp] theorem dropInput_params (s : State) : s.dropInput.params = s.params := rfl
@[simp] theorem dropInput_pixel (s : State) (p : Nat) : s.dropInput.pixel p = s.pixel p := rfl
@[simp] theorem dropInput_rampUnit (s : State) (u : Nat) :
    s.dropInput.rampUnit u = s.rampUnit u := rfl
@[simp] theorem presentNext_lut (s : State) (e : EdgeInput) : (s.presentNext e).lut = s.lut := rfl
@[simp] theorem presentNext_pixels (s : State) (e : EdgeInput) :
    (s.presentNext e).pixels = s.pixels := rfl
@[simp] theorem presentNext_cnt (s : State) (e : EdgeInput) : (s.presentNext e).cnt = s.cnt := rfl
@[simp] theorem presentNext_units (s : State) (e : EdgeInput) :
    (s.presentNext e).units = s.units := rfl
@[simp] theorem presentNext_inputs (s : State) (e : EdgeInput) :
    (s.presentNext e).inputs = e :: s.inputs.tail := rfl
@[simp] theorem presentNext_nextInput (s : State) (e : EdgeInput) :
    (s.presentNext e).nextInput = e := rfl

/-! ## resetBlock -/

@[simp] theorem resetBlock_lut (s : State) : s.resetBlock.lut = s.lut := rfl
@[simp] theorem resetBlock_cnt (s : State) : s.resetBlock.cnt = 0 := rfl
@[simp] theorem resetBlock_inputs (s : State) : s.resetBlock.inputs = s.inputs := rfl
@[simp] theorem resetBlock_pixels (s : State) :
    s.resetBlock.pixels = List.replicate s.pixelCount Pixel.zero := rfl
@[simp] theorem resetBlock_units (s : State) :
    s.resetBlock.units = List.replicate s.rampUnits RampUnit.zero := rfl

/-! ## Registers of a unit after a ramp operation -/

@[simp] theorem stepped_rb (x : RampUnit) (r : RampResult) : (x.stepped r).rb = x.rb := rfl
@[simp] theorem stepped_rv (x : RampUnit) (r : RampResult) : (x.stepped r).rv = byteOf r.value := rfl
@[simp] theorem stepped_rd (x : RampUnit) (r : RampResult) : (x.stepped r).rd = r.dir := rfl
@[simp] theorem stepped_rc (x : RampUnit) (r : RampResult) : (x.stepped r).rc = r.completed := rfl
@[simp] theorem raised_rb (x : RampUnit) (v : Nat) (w : Bool) : (x.raised v w).rb = x.rb := rfl
@[simp] theorem raised_rv (x : RampUnit) (v : Nat) (w : Bool) : (x.raised v w).rv = byteOf v := rfl
@[simp] theorem raised_rd (x : RampUnit) (v : Nat) (w : Bool) : (x.raised v w).rd = x.rd := rfl
@[simp] theorem raised_rc (x : RampUnit) (v : Nat) (w : Bool) : (x.raised v w).rc = w := rfl
@[simp] theorem compare_duty (n : Nat) (x : Pixel) : (x.compare n).duty = x.duty := rfl
@[simp] theorem compare_out (n : Nat) (x : Pixel) : (x.compare n).out = x.duty.map (laneOn n) := rfl
@[simp] theorem rgb_map_get {α β : Type} (f : α → β) (x : Rgb α) (c : Channel) :
    (x.map f).get c = f (x.get c) := by cases c <;> rfl

end Sys2Proof.Machine
end

