-- ==== Sys2Proof/Laws/Ops.lean ====
section
/-! SUPPORT. What each shared operation does, said once: the two banks read after a write, the bank
sizes and parameters no operation changes, and sequencing. -/

namespace Sys2Proof.Machine

/-! ## Read after write -/

theorem pixel_setPixel_same {s : State} {p : Nat} (h : p < s.pixelCount) (x : Pixel) :
    (s.setPixel p x).pixel p = x := by
  unfold State.pixelCount at h
  simp [State.pixel, List.getD, h]

theorem pixel_setPixel_ne {s : State} {p q : Nat} (h : q ≠ p) (x : Pixel) :
    (s.setPixel p x).pixel q = s.pixel q := by
  simp [State.pixel, List.getD, List.getElem?_set_ne (Ne.symm h)]

theorem rampUnit_setRampUnit_same {s : State} {u : Nat} (h : u < s.rampUnits) (x : RampUnit) :
    (s.setRampUnit u x).rampUnit u = x := by
  unfold State.rampUnits at h
  simp [State.rampUnit, List.getD, h]

theorem rampUnit_setRampUnit_ne {s : State} {u v : Nat} (h : v ≠ u) (x : RampUnit) :
    (s.setRampUnit u x).rampUnit v = s.rampUnit v := by
  simp [State.rampUnit, List.getD, List.getElem?_set_ne (Ne.symm h)]

theorem rb_setRampUnit_same {s : State} {u : Nat} (h : u < s.rampUnits) (x : RampUnit) :
    (s.setRampUnit u x).rb u = x.rb := by rw [State.rb, rampUnit_setRampUnit_same h]

theorem rv_setRampUnit_same {s : State} {u : Nat} (h : u < s.rampUnits) (x : RampUnit) :
    (s.setRampUnit u x).rv u = x.rv := by rw [State.rv, rampUnit_setRampUnit_same h]

theorem rd_setRampUnit_same {s : State} {u : Nat} (h : u < s.rampUnits) (x : RampUnit) :
    (s.setRampUnit u x).rd u = x.rd := by rw [State.rd, rampUnit_setRampUnit_same h]

theorem rc_setRampUnit_same {s : State} {u : Nat} (h : u < s.rampUnits) (x : RampUnit) :
    (s.setRampUnit u x).rc u = x.rc := by rw [State.rc, rampUnit_setRampUnit_same h]

theorem duty_setPixel_same {s : State} {p : Nat} (h : p < s.pixelCount) (x : Pixel) (c : Channel) :
    (s.setPixel p x).duty p c = x.duty.get c := by rw [State.duty, pixel_setPixel_same h]

theorem duty_setPixel_ne {s : State} {p q : Nat} (h : q ≠ p) (x : Pixel) (c : Channel) :
    (s.setPixel p x).duty q c = s.duty q c := by rw [State.duty, pixel_setPixel_ne h, State.duty]

theorem out_setPixel_same {s : State} {p : Nat} (h : p < s.pixelCount) (x : Pixel) (c : Channel) :
    (s.setPixel p x).out p c = x.out.get c := by rw [State.out, pixel_setPixel_same h]

theorem out_setPixel_ne {s : State} {p q : Nat} (h : q ≠ p) (x : Pixel) (c : Channel) :
    (s.setPixel p x).out q c = s.out q c := by rw [State.out, pixel_setPixel_ne h, State.out]

theorem pixel_mem {s : State} {p : Nat} (h : p < s.pixelCount) : s.pixel p ∈ s.pixels := by
  unfold State.pixelCount at h
  simp [State.pixel, List.getD, h]

theorem rampUnit_mem {s : State} {u : Nat} (h : u < s.rampUnits) : s.rampUnit u ∈ s.units := by
  unfold State.rampUnits at h
  simp [State.rampUnit, List.getD, h]

/-! ## The PWM step over the bank -/

/-- Every pixel of the block after a PWM step compares its own lengths. -/
theorem pixel_map_compare {s : State} {p : Nat} (h : p < s.pixelCount) (n : Nat) (c : Byte) :
    State.pixel { s with pixels := s.pixels.map (Pixel.compare n), cnt := c } p =
      (s.pixel p).compare n := by
  unfold State.pixelCount at h
  simp [State.pixel, List.getD, h]

/-- The stored lengths are untouched by a PWM step. -/
theorem duty_map_compare (s : State) (p n : Nat) (d : Byte) (c : Channel) :
    State.duty { s with pixels := s.pixels.map (Pixel.compare n), cnt := d } p c = s.duty p c := by
  by_cases h : p < s.pixelCount
  · rw [State.duty, pixel_map_compare h, compare_duty, State.duty]
  · unfold State.pixelCount at h
    simp [State.duty, State.pixel, List.getD, List.getElem?_eq_none (Nat.le_of_not_lt h)]

/-! ## Reset -/

@[simp] theorem resetBlock_pixel (s : State) (p : Nat) : s.resetBlock.pixel p = Pixel.zero := by
  simp [State.pixel, List.getD, List.getElem?_replicate]
  split <;> rfl

@[simp] theorem resetBlock_rampUnit (s : State) (u : Nat) :
    s.resetBlock.rampUnit u = RampUnit.zero := by
  simp [State.rampUnit, List.getD, List.getElem?_replicate]
  split <;> rfl

/-! ## Parameters -/

@[simp] theorem setPixel_pixelCount (s : State) (p : Nat) (x : Pixel) :
    (s.setPixel p x).pixelCount = s.pixelCount := by simp [State.pixelCount]
@[simp] theorem setPixel_rampUnits (s : State) (p : Nat) (x : Pixel) :
    (s.setPixel p x).rampUnits = s.rampUnits := rfl
@[simp] theorem setRampUnit_pixelCount (s : State) (u : Nat) (x : RampUnit) :
    (s.setRampUnit u x).pixelCount = s.pixelCount := rfl
@[simp] theorem setRampUnit_rampUnits (s : State) (u : Nat) (x : RampUnit) :
    (s.setRampUnit u x).rampUnits = s.rampUnits := by simp [State.rampUnits]
@[simp] theorem resetBlock_pixelCount (s : State) : s.resetBlock.pixelCount = s.pixelCount := by
  simp [State.pixelCount]
@[simp] theorem resetBlock_rampUnits (s : State) : s.resetBlock.rampUnits = s.rampUnits := by
  simp [State.rampUnits]
@[simp] theorem setPixel_params (s : State) (p : Nat) (x : Pixel) :
    (s.setPixel p x).params = s.params := by simp [State.params]
@[simp] theorem setRampUnit_params (s : State) (u : Nat) (x : RampUnit) :
    (s.setRampUnit u x).params = s.params := by simp [State.params]
@[simp] theorem resetBlock_params (s : State) : s.resetBlock.params = s.params := by
  simp [State.params]

/-! ## A number put in a byte -/

theorem byteOf_toNat {n : Nat} (h : n < 256) : (byteOf n).toNat = n := by
  simp [byteOf, Nat.mod_eq_of_lt h]

/-! ## Sequencing -/

@[simp] theorem andThen_next (s : State) (f : State → Host.Outcome State Fault Refusal) :
    andThen (.next s) f = f s := rfl

@[simp] theorem andThen_refused (r : Refusal) (f : State → Host.Outcome State Fault Refusal) :
    andThen (.refused r) f = .refused r := rfl

/-- If a sequence answers a next state, its first part did, and the rest went on from there. -/
theorem andThen_eq_next {o : Host.Outcome State Fault Refusal}
    {f : State → Host.Outcome State Fault Refusal} {t : State} (h : andThen o f = .next t) :
    ∃ s, o = .next s ∧ f s = .next t := by
  cases o with
  | next s => exact ⟨s, rfl, h⟩
  | fault r => cases h
  | refused r => cases h

end Sys2Proof.Machine
end

