-- ==== Sys2Proof/Laws/Exec.lean ====
section
/-! SUPPORT. Inversion of the meanings and of the clock edge: if one answers a next state, these are the
cases. -/

namespace Sys2Proof.Machine

theorem execSeti_cases {p r g b : Nat} {s t : State} (h : execSeti p r g b s = .next t) :
    (s.hasPixel p = false ∧ t = s) ∨
      (s.hasPixel p = true ∧ t = s.setPixel p
        { s.pixel p with duty := s.lengthsAfter r g b (s.pixel p).duty }) := by
  unfold execSeti at h
  split at h
  · exact .inr ⟨‹_›, by cases h; rfl⟩
  · exact .inl ⟨Bool.eq_false_of_not_eq_true ‹_›, by cases h; rfl⟩

theorem execRinit_cases {u bound value : Nat} {dir : Direction} {s t : State}
    (h : execRinit u bound value dir s = .next t) :
    ((s.hasUnit u = false ∨ bound < value) ∧ t = s) ∨
      (s.hasUnit u = true ∧ value ≤ bound ∧ t = s.setRampUnit u (loadedUnit bound value dir)) := by
  unfold execRinit at h
  split at h
  · split at h
    · exact .inr ⟨‹_›, ‹_›, by cases h; rfl⟩
    · exact .inl ⟨.inr (by omega), by cases h; rfl⟩
  · exact .inl ⟨.inl (Bool.eq_false_of_not_eq_true ‹_›), by cases h; rfl⟩

theorem execRstep_cases {u sz : Nat} {s t : State} (h : execRstep u sz s = .next t) :
    (s.hasUnit u = false ∧ t = s) ∨
      (s.hasUnit u = true ∧ s.stepSizeOk u sz = true ∧ t = s.setRampUnit u
        ((s.rampUnit u).stepped (rampStep (s.rb u).toNat (s.rd u) (s.rv u).toNat sz))) := by
  unfold execRstep at h
  split at h
  · split at h
    · exact .inr ⟨‹_›, ‹_›, by cases h; rfl⟩
    · cases h
  · exact .inl ⟨Bool.eq_false_of_not_eq_true ‹_›, by cases h; rfl⟩

theorem execRup_cases {u sz : Nat} {s t : State} (h : execRup u sz s = .next t) :
    (s.hasUnit u = false ∧ t = s) ∨
      (s.hasUnit u = true ∧ s.stepSizeOk u sz = true ∧ t = s.setRampUnit u
        ((s.rampUnit u).raised (rampUpValue (s.rb u).toNat (s.rv u).toNat sz)
          (rampUpWraps (s.rb u).toNat (s.rv u).toNat sz))) := by
  unfold execRup at h
  split at h
  · split at h
    · exact .inr ⟨‹_›, ‹_›, by cases h; rfl⟩
    · cases h
  · exact .inl ⟨Bool.eq_false_of_not_eq_true ‹_›, by cases h; rfl⟩

/-- A carrier that runs to a next state was an operation that did, or was rejected and changed nothing. -/
theorem runWord_cases {w : OpWord} {s t : State} (h : runWord w s = .next t) :
    (∃ i, decode w = .op i ∧ exec i s = .next t) ∨ (∃ why, decode w = .rejected why ∧ t = s) := by
  unfold runWord at h
  split at h
  · exact .inl ⟨_, ‹_›, h⟩
  · exact .inr ⟨_, ‹_›, by cases h; rfl⟩

/-- An edge that answers a next state was a reset, or the PWM step where the tick was asserted and then
the command where one was presented. -/
theorem clockEdge_cases {e : EdgeInput} {s t : State} (h : clockEdge e s = .next t) :
    (e.rst = true ∧ t = s.resetBlock) ∨
      (e.rst = false ∧ ∃ s₁, runWord (.tick e.pwmTick) s = .next s₁ ∧ commandPart e s₁ = .next t) := by
  unfold clockEdge at h
  split at h
  · exact .inl ⟨‹_›, by cases h; rfl⟩
  · exact .inr ⟨Bool.eq_false_of_not_eq_true ‹_›, andThen_eq_next h⟩

end Sys2Proof.Machine
end

