-- ==== Sys2Proof/Laws/Flags.lean ====
section
/-! SUPPORT. What the computed results are, said once for each. -/

namespace Sys2Proof.Machine

/-- A rising step ends below the bound still rising, or at the bound falling, and never completes. -/
theorem rampStepRising_cases (bound value sz : Nat) :
    (value + sz < bound ∧ rampStepRising bound value sz = ⟨.rising, value + sz, false⟩) ∨
      (bound ≤ value + sz ∧ rampStepRising bound value sz = ⟨.falling, bound, false⟩) := by
  unfold rampStepRising
  rcases Nat.lt_trichotomy (value + sz) bound with h | h | h
  · exact .inl ⟨h, by simp [h.le, h.ne]⟩
  · exact .inr ⟨h.ge, by simp [h]⟩
  · exact .inr ⟨h.le, by simp [Nat.not_le.2 h]⟩

/-- A falling step ends above 0 still falling, or at 0 rising and completed. -/
theorem rampStepFalling_cases (value sz : Nat) :
    (sz < value ∧ rampStepFalling value sz = ⟨.falling, value - sz, false⟩) ∨
      (value ≤ sz ∧ rampStepFalling value sz = ⟨.rising, 0, true⟩) := by
  unfold rampStepFalling
  rcases Nat.lt_trichotomy sz value with h | h | h
  · exact .inl ⟨h, by rw [if_pos h.le, if_neg (by omega)]⟩
  · exact .inr ⟨h.ge, by simp [h]⟩
  · exact .inr ⟨h.le, by rw [if_neg (by omega)]⟩

/-- RUP adds within the bound and reports nothing, or wraps to 0 and reports it. -/
theorem rampUp_cases (bound value sz : Nat) :
    (value + sz ≤ bound ∧ rampUpValue bound value sz = value + sz ∧
        rampUpWraps bound value sz = false) ∨
      (bound < value + sz ∧ rampUpValue bound value sz = 0 ∧ rampUpWraps bound value sz = true) := by
  unfold rampUpValue rampUpWraps
  rcases Nat.lt_or_ge bound (value + sz) with h | h
  · exact .inr ⟨h, by rw [if_neg (by omega)], by simpa using h⟩
  · exact .inl ⟨h, by rw [if_pos h], by simpa using h⟩

/-- A channel after SETI is the table's entry or what it was. -/
theorem channelAfter_cases (s : State) (v : Nat) (old : Byte) :
    (v ≤ s.maxIntensity ∧ s.channelAfter v old = s.lutRead v) ∨
      (s.maxIntensity < v ∧ s.channelAfter v old = old) := by
  unfold State.channelAfter State.inRange
  rcases Nat.lt_or_ge s.maxIntensity v with h | h
  · exact .inr ⟨h, by rw [if_neg (by simpa using h)]⟩
  · exact .inl ⟨h, by rw [if_pos (by simpa using h)]⟩

/-- The modulus is a table entry, so it fits a byte. -/
theorem modulus_lt (s : State) : s.modulus < 256 := (s.lut.getD _ 0).isLt

/-- The counter after a PWM step, on the naturals. -/
theorem nextCount_toNat {s : State} (h : s.cnt.toNat < s.modulus) :
    s.nextCount.toNat = if s.cnt.toNat + 1 = s.modulus then 0 else s.cnt.toNat + 1 := by
  have := modulus_lt s
  unfold State.nextCount
  split
  · rfl
  · exact byteOf_toNat (by omega)

end Sys2Proof.Machine
end

