-- ==== Sys2Proof/Laws/PerInstr.lean ====
section
/-! SUPPORT. Facts about every instruction as written, one lemma per constructor. -/

namespace Sys2Proof.Laws.EncodedCarrier

/-- Every instruction but PWMSTEP is carried by a command word, and PWMSTEP by the tick pin (rule R78). -/
def Statement (i : Instr) : Prop :=
  (i.isCommand = true → ∃ w, encode i = .command w) ∧ (i.isCommand = false → encode i = .tick true)

theorem nop : Statement .nop := ⟨fun _ => ⟨_, rfl⟩, by simp [Instr.isCommand]⟩

theorem seti (p r g b : Nat) : Statement (.seti p r g b) :=
  ⟨fun _ => ⟨_, rfl⟩, by simp [Instr.isCommand]⟩

theorem rinit (u bound value : Nat) (dir : Direction) : Statement (.rinit u bound value dir) :=
  ⟨fun _ => ⟨_, rfl⟩, by simp [Instr.isCommand]⟩

theorem rstep (u s : Nat) : Statement (.rstep u s) := ⟨fun _ => ⟨_, rfl⟩, by simp [Instr.isCommand]⟩

theorem rup (u s : Nat) : Statement (.rup u s) := ⟨fun _ => ⟨_, rfl⟩, by simp [Instr.isCommand]⟩

theorem pwmstep : Statement .pwmstep := ⟨by simp [Instr.isCommand], fun _ => rfl⟩

end Sys2Proof.Laws.EncodedCarrier
end

