-- ==== Sys2Proof/Laws/Run.lean ====
section
/-! SUPPORT. Running edges and operations in order, and the one fact an input list needs: no operation
looks at the inputs still to come. -/

namespace Sys2Proof.Machine

/-- The state with other inputs to come. -/
def State.withInputs (s : State) (es : List EdgeInput) : State := { s with inputs := es }

/-- An outcome whose next state has other inputs to come. -/
def outcomeWithInputs (es : List EdgeInput) (o : Host.Outcome State Fault Refusal) :
    Host.Outcome State Fault Refusal := andThen o fun t => .next (t.withInputs es)

theorem exec_withInputs (es : List EdgeInput) (i : Instr) (s : State) :
    exec i (s.withInputs es) = outcomeWithInputs es (exec i s) := by
  cases i with
  | nop => rfl
  | pwmstep => rfl
  | seti p r g b =>
    simp only [exec, execSeti]
    change (if s.hasPixel p then _ else _) = _
    split <;> rfl
  | rinit u bound value dir =>
    simp only [exec, execRinit]
    change (if s.hasUnit u then _ else _) = _
    split
    · split <;> rfl
    · rfl
  | rstep u sz =>
    simp only [exec, execRstep]
    change (if s.hasUnit u then (if s.stepSizeOk u sz then _ else _) else _) = _
    split
    · split <;> rfl
    · rfl
  | rup u sz =>
    simp only [exec, execRup]
    change (if s.hasUnit u then (if s.stepSizeOk u sz then _ else _) else _) = _
    split
    · split <;> rfl
    · rfl

/-- The tick pin at 1 is the PWM step, at 0 it is nothing (rule R78). -/
theorem runWord_tick (level : Bool) (s : State) :
    runWord (.tick level) s = if level then exec .pwmstep s else .next s := by
  cases level <;> rfl

theorem execAll_append (is js : List Instr) (s : State) :
    execAll (is ++ js) s = andThen (execAll is s) (execAll js) := by
  induction is generalizing s with
  | nil => rfl
  | cons i is ih => simp only [List.cons_append, execAll]; cases exec i s <;> simp [andThen, ih]

/-- One more operation of the same kind after `k` of them. -/
theorem execAll_replicate_succ {k : Nat} {i : Instr} {s t : State}
    (h : execAll (List.replicate k i) s = .next t) :
    execAll (List.replicate (k + 1) i) s = exec i t := by
  rw [List.replicate_succ', execAll_append, h]
  simp only [andThen_next, execAll]
  cases exec i t <;> rfl

/-- A run of the host's machine goes on from the state its first step answers. -/
theorem core_run_next (M : Host.Core) (n : Nat) {s s' : M.State} (h : M.step s = .next s') :
    M.run (n + 1) s = M.run n s' := by simp only [Host.Core.run, h]

end Sys2Proof.Machine
end

