-- ==== Sys2Proof/Tests/Slice0.lean ====
section
/-! SUPPORT. Tests of the model against words, tables and vectors of the spec (each names its source), and
for every statement with hypotheses a state and operands that meet them. -/

namespace Sys2Proof.Tests

open Sys2Proof Sys2Proof.Machine

/-- The next state of an outcome. -/
def nextOf (o : Host.Outcome State Fault Refusal) : Option State :=
  match o with
  | .next s => some s
  | .fault _ => none
  | .refused _ => none

/-- The refusal of an outcome. -/
def refusalOf (o : Host.Outcome State Fault Refusal) : Option Refusal :=
  match o with
  | .next _ => none
  | .fault _ => none
  | .refused r => some r

/-- The default block after reset with ramp unit 1 as given. -/
def unitState (rb rv : Byte) (rd : Direction) (rc : Bool) : State :=
  State.reset.setRampUnit 1 ⟨rb, rv, rd, rc⟩

/-- The default block after reset with one pixel's lengths and the counter as given. -/
def pixelState (p : Nat) (r g b : Byte) (cnt : Byte) : State :=
  { State.reset.setPixel p ⟨⟨r, g, b⟩, ⟨false, false, false⟩⟩ with cnt := cnt }

/-- Unit 1 after an operation. -/
def unit1After (i : Instr) (s : State) : Option RampUnit := (nextOf (exec i s)).map (·.rampUnit 1)

/-- The lengths of pixel `p` after an operation. -/
def lengthsAfterRun (i : Instr) (p : Nat) (s : State) : Option (Rgb Byte) :=
  (nextOf (exec i s)).map fun t => (t.pixel p).duty

/-- The small block of 95_test_vectors.md 2.6: two pixels, table [0, 1, 2, 4], here with two units. -/
def smallParams : Params := { pixelCount := 2, lut := [0, 1, 2, 4], rampUnits := 2 }

/-- Its reset state. -/
def small : State := State.resetWith smallParams

/-! ## Well-formedness: each check refuses an operand one past its field -/

theorem test_wf_pixel_field : (Instr.seti 256 0 0 0).wellFormed = false := by decide
theorem test_wf_red_field : (Instr.seti 0 256 0 0).wellFormed = false := by decide
theorem test_wf_green_field : (Instr.seti 0 0 256 0).wellFormed = false := by decide
theorem test_wf_blue_field : (Instr.seti 0 0 0 256).wellFormed = false := by decide
theorem test_wf_rinit_fields : (Instr.rinit 16 0 0 .rising).wellFormed = false ∧
    (Instr.rinit 0 256 0 .rising).wellFormed = false ∧
    (Instr.rinit 0 0 256 .rising).wellFormed = false := by decide
theorem test_wf_rstep_fields : (Instr.rstep 16 0).wellFormed = false ∧
    (Instr.rstep 0 256).wellFormed = false := by decide
theorem test_wf_rup_fields : (Instr.rup 16 0).wellFormed = false ∧
    (Instr.rup 0 256).wellFormed = false := by decide
theorem test_wf_lines_refused : (Line.command .pwmstep).wellFormed 63 = false ∧
    (Line.tickWith (.rstep 16 0)).wellFormed 63 = false ∧ (Line.word (2 ^ 40)).wellFormed 63 = false ∧
    (Line.rset 16 0).wellFormed 63 = false ∧ (Line.rset 0 256).wellFormed 63 = false ∧
    (Line.setc 256 .red 0).wellFormed 63 = false ∧ (Line.setc 0 .red 256).wellFormed 63 = false ∧
    (Line.setc 0 .red 0).wellFormed 255 = false := by decide

/-! ## Decoding: words written from the patterns of rule R73 (the operands of rule R82) -/

theorem test_decode_nop :
    decode (.command (0b0000#4 ++ 0b0000#4 ++ 0b00000000#8 ++ 0b00000000#8 ++ 0b00000000#8 ++
      0b00000000#8)) = .op .nop := by decide
theorem test_decode_seti :
    decode (.command (0b0001#4 ++ 0b0000#4 ++ 0b00000100#8 ++ 0b00000010#8 ++ 0b00001011#8 ++
      0b00011000#8)) = .op (.seti 4 2 11 24) := by decide
theorem test_decode_rinit :
    decode (.command (0b1000#4 ++ 0b0001#4 ++ 0b00111111#8 ++ 0b00001010#8 ++ 0b00000001#8 ++
      0b00000000#8)) = .op (.rinit 1 63 10 .falling) := by decide
theorem test_decode_rstep :
    decode (.command (0b1001#4 ++ 0b0000#4 ++ 0b00000010#8 ++ 0b00000000#8 ++ 0b00000000#8 ++
      0b00000000#8)) = .op (.rstep 0 2) := by decide
theorem test_decode_rup :
    decode (.command (0b1010#4 ++ 0b0001#4 ++ 0b00000100#8 ++ 0b00000000#8 ++ 0b00000000#8 ++
      0b00000000#8)) = .op (.rup 1 4) := by decide
theorem test_decode_pwmstep : decode (.tick true) = .op .pwmstep := by decide

/-- V-D2, V-D5, V-D8, V-D9, V-D13, V-D15: a must-be-zero field that is not zero. -/
theorem test_decode_reserved_fields :
    decode (.command 0x0000000001) = .rejected (.nonzeroUnusedField 0x0) ∧
    decode (.command 0x1100000000) = .rejected (.nonzeroUnusedField 0x1) ∧
    decode (.command 0x813F0A0200) = .rejected (.nonzeroUnusedField 0x8) ∧
    decode (.command 0x813F0A0101) = .rejected (.nonzeroUnusedField 0x8) ∧
    decode (.command 0x9002000001) = .rejected (.nonzeroUnusedField 0x9) ∧
    decode (.command 0xA104010000) = .rejected (.nonzeroUnusedField 0xA) := by decide
/-- V-D16 to V-D19: unassigned opcodes. -/
theorem test_decode_reserved_opcodes :
    decode (.command 0x2000000000) = .rejected (.unassignedOpcode 0x2) ∧
    decode (.command 0x7FFFFFFFFF) = .rejected (.unassignedOpcode 0x7) ∧
    decode (.command 0xB000000000) = .rejected (.unassignedOpcode 0xB) ∧
    decode (.command 0xFFFFFFFFFF) = .rejected (.unassignedOpcode 0xF) := by decide
/-- Rule R82's words are what the encoder gives their lines. -/
theorem test_encode_worked_words :
    encode (.seti 1 255 255 10) = .command 0x1001FFFF0A ∧
    encode (.rinit 2 63 21 .rising) = .command 0x823F150000 ∧
    encode (.rup 1 4) = .command 0xA104000000 := by decide
theorem test_table_words :
    decodeTableWord 40 0x9002000000 = some (.rstep 0 2) ∧ decodeTableWord 8 1 = some .pwmstep ∧
    decodeTableWord 1 1 = some .pwmstep ∧ decodeTableWord 40 0x9002000001 = none := by decide

/-! ## The table (rule R56's list) -/

theorem test_refLut_entries : refLut.map BitVec.toNat =
    [0, 1, 1, 1, 2, 2, 3, 4, 5, 6, 7, 8, 10, 11, 13, 15, 17, 19, 21, 24, 26, 29, 32, 34, 38, 41, 44,
      47, 51, 55, 58, 62, 66, 70, 75, 79, 84, 88, 93, 98, 103, 109, 114, 119, 125, 131, 136, 142, 149,
      155, 161, 168, 174, 181, 188, 195, 202, 209, 217, 224, 232, 240, 247, 255] := by decide

/-! ## One step each, from the vectors of 95_test_vectors.md -/

/-- V-I2. -/
theorem test_rinit_loads : unit1After (.rinit 1 10 10 .rising) (unitState 63 40 .falling true) =
    some ⟨10, 10, .rising, false⟩ := by decide
/-- V-I3. -/
theorem test_rinit_value_above_bound : unit1After (.rinit 1 10 11 .rising) (unitState 63 40 .falling true) =
    some ⟨63, 40, .falling, true⟩ := by decide
/-- V-S22: the sum 505 does not wrap. -/
theorem test_rstep_clamps_at_bound : unit1After (.rstep 1 255) (unitState 255 250 .rising false) =
    some ⟨255, 255, .falling, false⟩ := by decide
/-- V-S9. -/
theorem test_rstep_undershoot_completes : unit1After (.rstep 1 7) (unitState 63 6 .falling false) =
    some ⟨63, 0, .rising, true⟩ := by decide
/-- V-U9: the sum 260 does not wrap, the overshoot is discarded. -/
theorem test_rup_wraps_to_zero : unit1After (.rup 1 10) (unitState 255 250 .rising false) =
    some ⟨255, 0, .rising, true⟩ := by decide
/-- V-U12. -/
theorem test_rup_keeps_direction : unit1After (.rup 1 4) (unitState 10 3 .falling true) =
    some ⟨10, 7, .falling, false⟩ := by decide
/-- V-S25 and V-U11: no meaning. -/
theorem test_step_size_refused :
    refusalOf (exec (.rstep 1 9) (unitState 7 3 .rising false)) = some .stepSizeAboveBound ∧
    refusalOf (exec (.rup 1 12) (unitState 10 3 .rising false)) = some .stepSizeAboveBound := by decide
/-- V-T2. -/
theorem test_seti_out_of_range_kept : lengthsAfterRun (.seti 0 64 10 255) 0 (pixelState 0 255 0 66 0) =
    some ⟨255, 7, 66⟩ := by decide
/-- V-T7. -/
theorem test_seti_last_pixel : lengthsAfterRun (.seti 4 10 20 30) 4 State.reset =
    some ⟨7, 26, 58⟩ := by decide
/-- V-P5: length 255 still on, 254 off, and the counter wraps. -/
theorem test_pwmstep_wraps : (nextOf (exec .pwmstep (pixelState 1 255 254 0 254))).map
    (fun t => ((t.pixel 1).out, t.cnt)) = some (⟨true, false, false⟩, 0) := by decide
/-- V-P3. -/
theorem test_pwmstep_compares_old_count : (nextOf (exec .pwmstep (pixelState 0 255 0 66 65))).map
    (fun t => ((t.pixel 0).out, t.cnt)) = some (⟨true, false, true⟩, 66) := by decide
/-- NOP leaves a state with a non-zero counter and unit as it was (rule R160). -/
theorem test_nop : nextOf (exec .nop (unitState 63 40 .falling true)) =
    some (unitState 63 40 .falling true) := by decide
/-- V-E1: the step compares against the old lengths while SETI stores the new. -/
theorem test_tick_with_seti : (nextOf (clockEdge ⟨false, true, true, 0x10013F3F3F⟩
    (pixelState 1 1 0 2 1))).map (fun t => (t.pixel 1, t.cnt)) =
    some (⟨⟨255, 255, 255⟩, ⟨false, false, true⟩⟩, 2) := by decide
/-- V-E3: reset wins. -/
theorem test_reset_wins : nextOf (clockEdge ⟨true, true, true, 0x10003F3F3F⟩
    (pixelState 1 1 0 2 1)) = some State.reset := by decide
/-- V-E8 through the host's entry: the first instruction after reset. -/
theorem test_first_instruction_after_reset :
    (nextOf (step (State.reset.withFetchWord 40 0x9001000000))).map (·.rampUnit 0) =
      some ⟨0, 0, .falling, false⟩ ∧
    (nextOf (step (State.reset.withFetchWord 8 1))).map (·.cnt) = some 1 := by decide
/-- Tick 1 of the M = 4 table: `out` is 23 with the lengths (1, 2, 4) and (0, 4, 0). -/
theorem test_out_port_value : ((nextOf (runEdges [⟨false, false, true, 0x1000010203⟩,
    ⟨false, false, true, 0x1001000304⟩, EdgeInput.tick] small)).map (·.outPort.toNat)) =
      some 23 := by decide

/-! ## For every statement with hypotheses, a state and operands that meet them

One theorem each, the clauses of a statement at the boundary values of their ranges. -/

/-- The small block with pixel 0 lit to (1, 2, 4) and unit 1 in mid-ramp. -/
def lit : State :=
  (small.setPixel 0 ⟨⟨1, 2, 4⟩, ⟨false, false, false⟩⟩).setRampUnit 1 ⟨63, 60, .rising, false⟩

/-- The block of the smallest modulus: table [0, 1]. -/
def smallest : State :=
  (State.resetWith { pixelCount := 1, lut := [0, 1], rampUnits := 0 }).setPixel 0
    ⟨⟨0, 1, 1⟩, ⟨false, false, false⟩⟩

/-- One PWM period of the small block, a SETI of the other pixel sharing its second edge. -/
def period : List EdgeInput :=
  [EdgeInput.tick, ⟨false, true, true, 0x1001010203⟩, EdgeInput.tick, EdgeInput.idle, EdgeInput.tick]

theorem witness_DecodeEncodeAgree : (Instr.seti 255 255 255 255).WellFormed ∧
    (Instr.rinit 15 255 255 .falling).WellFormed ∧ (Instr.rstep 15 255).WellFormed ∧
    (Instr.rup 15 255).WellFormed ∧ Instr.nop.WellFormed ∧ Instr.pwmstep.WellFormed := by decide
theorem witness_EncodeDecodeAgree : decode (.command 0x8F00000100) = .op (.rinit 15 0 0 .falling) ∧
    decode (.tick true) = .op .pwmstep := by decide
theorem witness_DecodeFollowsTheOpcodeMap : 0x9002000001#40 &&& 0xFFFFFFFFFF#40 ≠ 0x0000000000#40 ∧
    0x9002000001#40 &&& 0xFF00000000#40 ≠ 0x1000000000#40 ∧
    0x9002000001#40 &&& 0xF00000FEFF#40 ≠ 0x8000000000#40 ∧
    0x9002000001#40 &&& 0xF000FFFFFF#40 ≠ 0x9000000000#40 ∧
    0x9002000001#40 &&& 0xF000FFFFFF#40 ≠ 0xA000000000#40 := by decide
theorem witness_StepRunsTheDecodedInstruction :
    (EdgeInput.ofInstr (.rstep 0 1)).rst = false ∧ (EdgeInput.ofInstr (.rstep 0 1)).pwmTick = false ∧
    (EdgeInput.ofInstr (.rstep 0 1)).cmdValid = true ∧
    decode (.command (EdgeInput.ofInstr (.rstep 0 1)).cmd) = .op (.rstep 0 1) ∧
    EdgeInput.tick.rst = false ∧ EdgeInput.tick.pwmTick = true ∧ EdgeInput.tick.cmdValid = false ∧
    (EdgeInput.ofInstr (.rstep 0 1)).withTick.rst = false ∧
    (EdgeInput.ofInstr (.rstep 0 1)).withTick.pwmTick = true ∧
    (EdgeInput.ofInstr (.rstep 0 1)).withTick.cmdValid = true ∧
    (small.presentNext EdgeInput.tick).inputs = EdgeInput.tick :: [] := by decide
theorem witness_PresentedInstructionRuns : (Instr.rinit 15 255 255 .falling).WellFormed := by decide
theorem witness_ResetEdgeZeroesEverything : (EdgeInput.mk true true true 0x10003F3F3F).rst = true := by
  decide
theorem witness_NoInputIsAnIdleEdge : State.reset.inputs = [] := by decide
theorem witness_SharedEdgeLetsBothReadTheOldState :
    ∃ (e : EdgeInput) (s₂ : State), e.rst = false ∧ e.pwmTick = true ∧ e.cmdValid = true ∧
      clockEdge { e with pwmTick := false } lit = .next s₂ :=
  ⟨⟨false, true, true, 0x1000030303⟩, _, rfl, rfl, rfl, rfl⟩
theorem witness_ReservedWordsExecuteAsNop : reservedWord 0x2000000000 ∧ reservedWord 0x7FFFFFFFFF ∧
    reservedWord 0xB000000000 ∧ reservedWord 0xFFFFFFFFFF ∧ reservedWord 0x0000000001 ∧
    reservedWord 0x1F00000000 ∧ reservedWord 0x8000000200 ∧ reservedWord 0x8000000001 ∧
    reservedWord 0x9000000001 ∧ reservedWord 0xA000800000 := by
  refine ⟨?_, ?_, ?_, ?_, ?_, ?_, ?_, ?_, ?_, ?_⟩ <;> decide
theorem witness_ListingLinesRunAsWritten : (Line.command (.seti 255 0 0 0)).wellFormed small.maxIntensity = true ∧
    (Line.rset 15 255).wellFormed small.maxIntensity = true := by decide
theorem witness_StepStopsExactlyOnABrokenDuty :
    (lit.presentNext (EdgeInput.ofInstr (.rstep 1 64))).hostDutyMet = true ∧
    (lit.presentNext (EdgeInput.ofInstr (.rstep 1 65))).hostDutyMet = false ∧
    (lit.presentNext (EdgeInput.ofInstr (.rup 1 64))).hostDutyMet = true ∧
    (lit.presentNext (EdgeInput.ofInstr (.rup 1 65))).hostDutyMet = false ∧
    (lit.presentNext (EdgeInput.ofInstr (.rstep 2 65))).hostDutyMet = true := by decide
theorem witness_AbsentUnitIsIgnored : lit.rampUnits ≤ 2 := by decide
theorem witness_AfterResetOnlyStepsZeroAndOneHaveAMeaning : 2 < Params.default.rampUnits ∧ 2 ≤ 2 ∧ 1 ≤ 1 := by
  decide
theorem witness_RinitFollowsItsRule : (Instr.rinit 1 255 255 .falling).WellFormed ∧ lit.rampUnits ≤ 2 ∧
    (Instr.rinit 2 0 0 .rising).WellFormed ∧ 10 < 11 ∧ (Instr.rinit 1 10 11 .rising).WellFormed ∧
    1 < lit.rampUnits ∧ 255 ≤ 255 := by decide
theorem witness_RstepFollowsItsRule : (15 < 16 ∧ 255 < 256) ∧ lit.rampUnits ≤ 2 ∧
    (1 < lit.rampUnits ∧ (lit.rb 1).toNat + 1 < 65) ∧
    (64 ≤ (lit.rb 1).toNat + 1 ∧ lit.rd 1 = .rising ∧ (lit.rb 1).toNat ≤ (lit.rv 1).toNat + 64) ∧
    (2 ≤ (lit.rb 1).toNat + 1 ∧ (lit.rv 1).toNat + 2 < (lit.rb 1).toNat) ∧
    (lit.rb 1).toNat ≤ (lit.rv 1).toNat + 3 ∧
    ((unitState 63 7 .falling false).rd 1 = .falling ∧ 1 < (unitState 63 7 .falling false).rampUnits ∧
      6 < ((unitState 63 7 .falling false).rv 1).toNat ∧
      ((unitState 63 7 .falling false).rv 1).toNat ≤ 7 ∧
      7 ≤ ((unitState 63 7 .falling false).rb 1).toNat + 1) := by decide
theorem witness_RstepKeepsTheValueWithinTheBound : 1 < lit.rampUnits ∧ 64 ≤ (lit.rb 1).toNat + 1 ∧
    (lit.rv 1).toNat ≤ (lit.rb 1).toNat ∧ lit.rd 1 = .rising ∧
    (let s := unitState 63 63 .falling false
     1 < s.rampUnits ∧ 64 ≤ (s.rb 1).toNat + 1 ∧ (s.rv 1).toNat ≤ (s.rb 1).toNat ∧ s.rd 1 = .falling) := by
  decide
theorem witness_RstepBySizeZero :
    (let s := unitState 5 5 .rising false
     1 < s.rampUnits ∧ (s.rv 1).toNat ≤ (s.rb 1).toNat ∧ s.rd 1 = .rising) ∧
    (let s := unitState 5 0 .falling false
     1 < s.rampUnits ∧ (s.rv 1).toNat ≤ (s.rb 1).toNat ∧ s.rd 1 = .falling) := by decide
theorem witness_RstepByBoundPlusOne :
    (let s := unitState 7 3 .rising false
     1 < s.rampUnits ∧ (s.rv 1).toNat ≤ (s.rb 1).toNat ∧ s.rd 1 = .rising) ∧
    (let s := unitState 7 7 .falling false
     1 < s.rampUnits ∧ (s.rv 1).toNat ≤ (s.rb 1).toNat ∧ s.rd 1 = .falling) := by decide
theorem witness_RampCycleLength :
    (let s := unitState 10 0 .rising false
     1 < s.rampUnits ∧ s.rv 1 = 0 ∧ s.rd 1 = .rising ∧ 1 ≤ (s.rb 1).toNat ∧ 1 ≤ 4 ∧
       4 ≤ (s.rb 1).toNat + 1 ∧ 3 = ((s.rb 1).toNat + 4 - 1) / 4 ∧ 1 ≤ 6 ∧ 6 ≤ 2 * 3) ∧
    (let s := unitState 0 0 .rising false
     1 < s.rampUnits ∧ s.rb 1 = 0 ∧ s.rv 1 = 0 ∧ s.rd 1 = .rising ∧ 1 ≤ 1) := by decide
theorem witness_FallingUnitCompletesAfterItsDescent :
    (let s := unitState 10 9 .falling false
     1 < s.rampUnits ∧ s.rd 1 = .falling ∧ 4 ≤ (s.rb 1).toNat + 1 ∧ 1 ≤ 4 ∧ 1 ≤ 3 ∧
       3 ≤ ((s.rv 1).toNat + 4 - 1) / 4) ∧
    (let s := unitState 10 0 .falling false
     1 < s.rampUnits ∧ s.rd 1 = .falling ∧ 0 ≤ (s.rb 1).toNat + 1) := by decide
theorem witness_RupFollowsItsRule : (15 < 16 ∧ 255 < 256) ∧ lit.rampUnits ≤ 2 ∧
    (1 < lit.rampUnits ∧ (lit.rb 1).toNat + 1 < 65) ∧ 64 ≤ (lit.rb 1).toNat + 1 ∧
    (lit.rv 1).toNat + 3 ≤ (lit.rb 1).toNat ∧ (lit.rb 1).toNat < (lit.rv 1).toNat + 4 := by decide
theorem witness_RupWrapPeriod :
    (let s := unitState 10 0 .falling false
     1 < s.rampUnits ∧ s.rv 1 = 0 ∧ 1 ≤ 5 ∧ 5 ≤ (s.rb 1).toNat + 1 ∧ 3 = (s.rb 1).toNat / 5 + 1 ∧
       1 ≤ 3 ∧ 3 ≤ 3) := by decide
theorem witness_RstepAfterRupKeepsTheDirection : 1 < lit.rampUnits ∧ 64 ≤ (lit.rb 1).toNat + 1 ∧
    lit.rd 1 = .rising ∧ (unitState 63 7 .falling false).rd 1 = .falling ∧
    1 < (unitState 63 7 .falling false).rampUnits ∧
    64 ≤ ((unitState 63 7 .falling false).rb 1).toNat + 1 := by decide
theorem witness_SetiFollowsItsRule : 255 < 256 ∧ small.pixelCount ≤ 2 ∧ 1 < small.pixelCount ∧
    3 ≤ small.maxIntensity ∧ ¬ 4 ≤ small.maxIntensity := by decide
theorem witness_SetiTwiceIsSetiOnce : ∃ t, exec (.seti 0 3 4 0) lit = .next t := ⟨_, rfl⟩
theorem witness_SetcWritesOneChannel : (Line.setc 1 .green 3).wellFormed small.maxIntensity = true ∧
    (Line.setc 1 .blue 255).wellFormed small.maxIntensity = true ∧ 1 < small.pixelCount := by decide
theorem witness_PwmstepFollowsItsRule : 1 < lit.pixelCount ∧ lit.CountBelowModulus ∧
    ({ lit with cnt := 3 } : State).CountBelowModulus := by decide
theorem witness_CounterCountsTheTicks : ∃ t, lit.CountBelowModulus ∧ noReset period = true ∧
    runEdges period lit = .next t := ⟨_, by decide, by decide, rfl⟩
theorem witness_OnTimeOverAPeriodIsTheLength : ∃ t, lit.Inv ∧ noReset period = true ∧
    tickCount period = lit.modulus ∧ runEdges period lit = .next t ∧
    dutyStays 0 .green (lit.duty 0 .green) period lit = true :=
  ⟨_, by decide, by decide, by decide, rfl, by decide⟩
theorem witness_BrighterIsOnAtLeastAsLong :
    (∃ t₁ t₂, lit.Inv ∧ 1 < lit.pixelCount ∧ 2 < 3 ∧ 3 ≤ lit.maxIntensity ∧
      exec (setcInstr 1 .blue 2) lit = .next t₁ ∧ exec (setcInstr 1 .blue 3) lit = .next t₂) ∧
    ∃ t, 0 < lit.pixelCount ∧ (lit.duty 0 .red).toNat ≤ (lit.duty 0 .blue).toNat ∧
      exec .pwmstep lit = .next t ∧ t.out 0 .red = true :=
  ⟨⟨_, _, by decide, by decide, by decide, by decide, rfl, rfl⟩, ⟨_, by decide, by decide, rfl, by decide⟩⟩
theorem witness_SmallestModulus : smallest.Inv ∧ smallest.modulus = 1 ∧ 1 ≤ smallest.maxIntensity ∧
    0 < smallest.pixelCount := by decide
theorem witness_ModulusIsTheLargestEntry : smallParams.Legal ∧ 3 ≤ smallParams.maxIntensity := by decide
theorem witness_PortsShowTheState : 1 < lit.pixelCount := by decide
theorem witness_OutputsHoldBetweenPwmSteps :
    (∃ t, (EdgeInput.ofInstr (.seti 0 3 3 3)).rst = false ∧
      (EdgeInput.ofInstr (.seti 0 3 3 3)).pwmTick = false ∧
      clockEdge (EdgeInput.ofInstr (.seti 0 3 3 3)) lit = .next t) ∧
    ∃ t, EdgeInput.tick.rst = false ∧ EdgeInput.tick.cmdValid = false ∧
      clockEdge EdgeInput.tick lit = .next t := ⟨⟨_, rfl, rfl, rfl⟩, ⟨_, rfl, rfl, rfl⟩⟩
theorem witness_OutputsStayDarkWithoutSeti :
    ∃ t, (∀ e ∈ [EdgeInput.tick, EdgeInput.ofInstr (.rinit 0 1 1 .rising)], e.cmdValid = true →
      ∀ p r g b, decode (.command e.cmd) ≠ .op (.seti p r g b)) ∧
    runEdges [EdgeInput.tick, EdgeInput.ofInstr (.rinit 0 1 1 .rising)] (State.resetWith smallParams) =
      .next t := by
  refine ⟨_, ?_, rfl⟩
  have h : decode (.command (EdgeInput.ofInstr (.rinit 0 1 1 .rising)).cmd) = .op (.rinit 0 1 1 .rising) := by
    decide
  simp [h, EdgeInput.tick, EdgeInput.ofWord]
theorem witness_AccessMatrixWrites : ∃ t, exec (.rup 1 3) lit = .next t := ⟨_, rfl⟩
theorem witness_SubBlocksDoNotInteract :
    ∃ t₁ t₂ t₃, clockEdge EdgeInput.tick lit = .next t₁ ∧
      clockEdge EdgeInput.tick (lit.setRampUnit 0 ⟨9, 9, .falling, true⟩) = .next t₂ ∧
      lit.lut = (lit.setRampUnit 0 ⟨9, 9, .falling, true⟩).lut ∧
      lit.pixels = (lit.setRampUnit 0 ⟨9, 9, .falling, true⟩).pixels ∧
      lit.cnt = (lit.setRampUnit 0 ⟨9, 9, .falling, true⟩).cnt ∧
      clockEdge EdgeInput.tick ({ lit with cnt := 3 } : State) = .next t₃ ∧
      lit.units = ({ lit with cnt := 3 } : State).units :=
  ⟨_, _, _, rfl, rfl, rfl, rfl, rfl, rfl, rfl⟩
theorem witness_UnitsShareNothing :
    ∃ t₁ t₂, lit.rampUnits = (lit.setRampUnit 0 ⟨9, 9, .falling, true⟩).rampUnits ∧
      lit.rampUnit 1 = (lit.setRampUnit 0 ⟨9, 9, .falling, true⟩).rampUnit 1 ∧
      exec (.rstep 1 3) lit = .next t₁ ∧
      exec (.rstep 1 3) (lit.setRampUnit 0 ⟨9, 9, .falling, true⟩) = .next t₂ :=
  ⟨_, _, rfl, rfl, rfl, rfl⟩
theorem witness_ResetMeetsTheInvariants : smallParams.Legal ∧ Params.default.Legal := by decide
theorem witness_StepKeepsTheInvariants :
    ∃ t, (lit.presentNext (EdgeInput.ofInstr (.rstep 1 3)).withTick).Inv ∧
      step (lit.presentNext (EdgeInput.ofInstr (.rstep 1 3)).withTick) = .next t :=
  ⟨_, by decide, rfl⟩
theorem witness_EveryReachableStateIsSound :
    ∃ t, smallParams.Legal ∧ runEdges period (State.resetWith smallParams) = .next t :=
  ⟨_, by decide, rfl⟩
theorem witness_ParametersNeverChange : ∃ t, step (lit.presentNext EdgeInput.reset) = .next t := ⟨_, rfl⟩

end Sys2Proof.Tests
end

section
/-! A run over the inputs held in the state is the run of the edges in order (rules R13, R62): no part of
an edge looks at the inputs still to come, so each commutes with `withInputs`. -/

namespace Sys2Proof.Machine

/-- If the second part of a sequence ignores the inputs still to come, they can be set after both parts. -/
theorem andThen_outcomeWithInputs {es : List EdgeInput}
    {f : State → Host.Outcome State Fault Refusal}
    (hf : ∀ t, f (t.withInputs es) = outcomeWithInputs es (f t))
    (o : Host.Outcome State Fault Refusal) :
    andThen (outcomeWithInputs es o) f = outcomeWithInputs es (andThen o f) := by
  cases o with
  | next t => exact hf t
  | fault r => rfl
  | refused r => rfl

theorem runWord_withInputs (es : List EdgeInput) (w : OpWord) (s : State) :
    runWord w (s.withInputs es) = outcomeWithInputs es (runWord w s) := by
  unfold runWord
  cases decode w with
  | op i => exact exec_withInputs es i s
  | rejected why => rfl

theorem commandPart_withInputs (es : List EdgeInput) (e : EdgeInput) (s : State) :
    commandPart e (s.withInputs es) = outcomeWithInputs es (commandPart e s) := by
  unfold commandPart
  split
  · exact runWord_withInputs es _ s
  · rfl

theorem clockEdge_withInputs (es : List EdgeInput) (e : EdgeInput) (s : State) :
    clockEdge e (s.withInputs es) = outcomeWithInputs es (clockEdge e s) := by
  unfold clockEdge
  split
  · rfl
  · rw [runWord_withInputs, andThen_outcomeWithInputs (commandPart_withInputs es e)]

/-- A step takes the head of the inputs and leaves the rest to come. -/
theorem step_withInputs_cons (e : EdgeInput) (es : List EdgeInput) (s : State) :
    step (s.withInputs (e :: es)) = clockEdge e (s.withInputs es) := rfl

/-- What a run does after its first step, in the words of `andThen`. -/
theorem core_run_succ (n : Nat) (s : State) :
    Sys2Proof.core.run (n + 1) s = andThen (step s) (Sys2Proof.core.run n) := by
  have hcore : Sys2Proof.core.step s = step s := rfl
  cases hstep : step s with
  | next t => exact core_run_next _ n (hcore.trans hstep)
  | fault r => exact nomatch r
  | refused r => simp only [Host.Core.run, hcore, hstep]; rfl

theorem core_run_withInputs (es : List EdgeInput) (s : State) :
    Sys2Proof.core.run es.length (s.withInputs es) = runEdges es (s.withInputs []) := by
  induction es generalizing s with
  | nil => rfl
  | cons e es ih =>
    rw [List.length_cons, core_run_succ, step_withInputs_cons, runEdges,
      clockEdge_withInputs es, clockEdge_withInputs []]
    cases clockEdge e s with
    | next t => exact ih t
    | fault r => rfl
    | refused r => rfl

/-- Settles O14, by induction on the inputs: each step is the head's clock edge, whatever inputs follow. -/
theorem runTakesTheInputsInOrder : Obligations.RunTakesTheInputsInOrder := core_run_withInputs

end Sys2Proof.Machine
end

section
/-! Where a step stops (rules R16, R17, R101, R102): the only stop is a ramp operation's step size, and
it depends on the ramp units alone, which a tick at the same edge does not touch. -/

namespace Sys2Proof.Machine

/-- The outcome is a next state where the duty is kept, and the refusal for the step size where not. -/
def CompletesExactlyWhen (kept : Bool) (o : Host.Outcome State Fault Refusal) : Prop :=
  (kept = true → ∃ t, o = .next t) ∧ (kept = false → o = .refused .stepSizeAboveBound)

theorem completesExactlyWhen_true_next (t : State) : CompletesExactlyWhen true (.next t) :=
  ⟨fun _ => ⟨t, rfl⟩, nofun⟩

theorem completesExactlyWhen_false_refused :
    CompletesExactlyWhen false (.refused .stepSizeAboveBound) := ⟨nofun, fun _ => rfl⟩

/-- The shape RSTEP and RUP share: ignored without the unit (rule R101), refused for the step size of an
existing one (rule R102). -/
theorem completesExactlyWhen_ramp (unitExists sizeOk : Bool) (s t : State) :
    CompletesExactlyWhen (!unitExists || sizeOk)
      (if unitExists then if sizeOk then .next t else .refused .stepSizeAboveBound
        else .next s) := by
  cases unitExists with
  | false => exact completesExactlyWhen_true_next s
  | true =>
    cases sizeOk with
    | false => exact completesExactlyWhen_false_refused
    | true => exact completesExactlyWhen_true_next t

theorem execSeti_next (p r g b : Nat) (s : State) : ∃ t, execSeti p r g b s = .next t := by
  unfold execSeti
  split <;> exact ⟨_, rfl⟩

theorem execRinit_next (u bound value : Nat) (dir : Direction) (s : State) :
    ∃ t, execRinit u bound value dir s = .next t := by
  unfold execRinit
  split
  · split <;> exact ⟨_, rfl⟩
  · exact ⟨_, rfl⟩

/-- Every instruction completes exactly where it keeps the host's duty. -/
theorem exec_completesExactlyWhen (i : Instr) (s : State) :
    CompletesExactlyWhen (instrKeepsDuty i s) (exec i s) := by
  cases i with
  | nop => exact completesExactlyWhen_true_next s
  | seti p r g b => exact ⟨fun _ => execSeti_next p r g b s, nofun⟩
  | rinit u bound value dir => exact ⟨fun _ => execRinit_next u bound value dir s, nofun⟩
  | rstep u sz => exact completesExactlyWhen_ramp (s.hasUnit u) (s.stepSizeOk u sz) s _
  | rup u sz => exact completesExactlyWhen_ramp (s.hasUnit u) (s.stepSizeOk u sz) s _
  | pwmstep => exact completesExactlyWhen_true_next _

/-! ## The duty is a matter of the ramp units alone -/

theorem stepSizeOk_congr {s t : State} (h : t.units = s.units) (u sz : Nat) :
    t.stepSizeOk u sz = s.stepSizeOk u sz := by
  unfold State.stepSizeOk State.rb State.rampUnit
  rw [h]

theorem hasUnit_congr {s t : State} (h : t.units = s.units) (u : Nat) :
    t.hasUnit u = s.hasUnit u := by
  unfold State.hasUnit State.rampUnits
  rw [h]

theorem instrKeepsDuty_congr {s t : State} (h : t.units = s.units) (i : Instr) :
    instrKeepsDuty i t = instrKeepsDuty i s := by
  cases i with
  | rstep u sz => simp only [instrKeepsDuty, hasUnit_congr h, stepSizeOk_congr h]
  | rup u sz => simp only [instrKeepsDuty, hasUnit_congr h, stepSizeOk_congr h]
  | nop | seti | rinit | pwmstep => rfl

theorem edgeKeepsDuty_congr {s t : State} (h : t.units = s.units) (e : EdgeInput) :
    edgeKeepsDuty e t = edgeKeepsDuty e s := by
  unfold edgeKeepsDuty
  cases decode (.command e.cmd) with
  | op i => simp only [instrKeepsDuty_congr h]
  | rejected why => rfl

/-! ## The halves of an edge -/

/-- The tick half of an edge always completes, and leaves the ramp units as they are. -/
theorem runWord_tick_next (level : Bool) (s : State) :
    ∃ t, runWord (.tick level) s = .next t ∧ t.units = s.units := by
  cases level <;> exact ⟨_, rfl, rfl⟩

/-- Without reset, the command half completes exactly where the edge keeps the duty. -/
theorem commandPart_completesExactlyWhen {e : EdgeInput} (hrst : e.rst = false) (s : State) :
    CompletesExactlyWhen (edgeKeepsDuty e s) (commandPart e s) := by
  unfold edgeKeepsDuty commandPart runWord
  cases e.cmdValid with
  | false => simpa [hrst] using completesExactlyWhen_true_next s
  | true =>
    cases decode (.command e.cmd) with
    | op i => simpa [hrst] using exec_completesExactlyWhen i s
    | rejected why => simpa [hrst, execRejected] using completesExactlyWhen_true_next s

theorem clockEdge_completesExactlyWhen (e : EdgeInput) (s : State) :
    CompletesExactlyWhen (edgeKeepsDuty e s) (clockEdge e s) := by
  cases hrst : e.rst with
  | true => simpa [edgeKeepsDuty, clockEdge, hrst] using completesExactlyWhen_true_next s.resetBlock
  | false =>
    obtain ⟨s₁, htick, hunits⟩ := runWord_tick_next e.pwmTick s
    have hcommand := commandPart_completesExactlyWhen hrst s₁
    rw [edgeKeepsDuty_congr hunits] at hcommand
    simpa [clockEdge, hrst, htick] using hcommand

theorem step_completesExactlyWhen (s : State) : CompletesExactlyWhen s.hostDutyMet (step s) := by
  have hedge := clockEdge_completesExactlyWhen s.nextInput s.dropInput
  rwa [edgeKeepsDuty_congr (dropInput_units s)] at hedge

/-- Settles O18: the tick half never stops and leaves the units alone, so the command half alone decides,
and there only the step size of a ramp operation can. -/
theorem stepStopsExactlyOnABrokenDuty : Obligations.StepStopsExactlyOnABrokenDuty :=
  step_completesExactlyWhen

end Sys2Proof.Machine
end

section
/-! What an operation leaves, register by register (rules R26, R37): the next state is a pointwise map of
the two banks, beside the counter. Every frame and invariant below is read off these maps. -/

namespace Sys2Proof.Machine

/-! ## A bank changed entry by entry -/

/-- The change of entry `u` by `f`, as a map that is told each entry's index. -/
def onlyAt {α : Type} (u : Nat) (f : α → α) (v : Nat) (x : α) : α := if v = u then f x else x

/-- What `f` keeps of an entry, its change of one entry keeps of every entry. -/
theorem onlyAt_keeps {α β : Type} {f : α → α} (g : α → β) (hf : ∀ x, g (f x) = g x) (u v : Nat) (x : α) :
    g (onlyAt u f v x) = g x := by
  unfold onlyAt
  split
  · exact hf x
  · rfl

/-- A property of an entry that `f` keeps, its change of one entry keeps. -/
theorem onlyAt_preserves {α : Type} {P : α → Prop} {f : α → α} {x : α} (hf : P x → P (f x)) (u v : Nat)
    (hx : P x) : P (onlyAt u f v x) := by
  unfold onlyAt
  split
  · exact hf hx
  · exact hx

theorem mapIdx_of_keeps {α : Type} {f : Nat → α → α} (hf : ∀ v x, f v x = x) (l : List α) :
    l.mapIdx f = l := by
  rw [List.mapIdx_eq_iff]
  intro v
  rw [show f v = id from funext (hf v), Option.map_id, id]

/-- Reading an entry, changing it and writing it back. -/
theorem set_getD_eq_mapIdx {α : Type} (l : List α) (u : Nat) (d : α) (f : α → α) :
    l.set u (f (l.getD u d)) = l.mapIdx (onlyAt u f) := by
  refine (List.mapIdx_eq_iff.2 fun v => ?_).symm
  rw [List.getElem?_set]
  rcases eq_or_ne u v with rfl | hne
  · cases h : l[u]? with
    | none => simp [List.getElem?_eq_none_iff.1 h]
    | some x =>
      obtain ⟨hu, rfl⟩ := List.getElem?_eq_some_iff.1 h
      simp [hu, onlyAt]
  · cases l[v]? <;> simp [onlyAt, hne, hne.symm]

/-- What the map keeps of every entry is read back as before, also past the end of the bank. -/
theorem getD_mapIdx_keeps {α β : Type} {f : Nat → α → α} (g : α → β) (hf : ∀ v x, g (f v x) = g x)
    (l : List α) (u : Nat) (d : α) : g ((l.mapIdx f).getD u d) = g (l.getD u d) := by
  cases h : l[u]? <;> simp [List.getD_eq_getElem?_getD, h, hf]

/-- A property that the map keeps of every entry holds of the whole bank after it. -/
theorem forall_mem_mapIdx {α : Type} {P : α → Prop} {f : Nat → α → α} {l : List α}
    (hf : ∀ v x, P x → P (f v x)) (hl : ∀ x ∈ l, P x) : ∀ x ∈ l.mapIdx f, P x := by
  intro x hx
  obtain ⟨v, hv, rfl⟩ := List.mem_mapIdx.1 hx
  exact hf v _ (hl _ (List.getElem_mem hv))

/-! ## What an operation leaves -/

/-- A unit after `RSTEP` by `sz` (rule R110). -/
def RampUnit.afterStep (sz : Nat) (x : RampUnit) : RampUnit :=
  x.stepped (rampStep x.rb.toNat x.rd x.rv.toNat sz)

/-- A unit after `RUP` by `sz` (rule R116). -/
def RampUnit.afterUp (sz : Nat) (x : RampUnit) : RampUnit :=
  x.raised (rampUpValue x.rb.toNat x.rv.toNat sz) (rampUpWraps x.rb.toNat x.rv.toNat sz)

/-- A unit after `RINIT`, ignored where the value is above the bound (rule R103). -/
def RampUnit.afterInit (bound value : Nat) (dir : Direction) (x : RampUnit) : RampUnit :=
  if value ≤ bound then loadedUnit bound value dir else x

/-- What an operation leaves in unit `v`, from that unit's registers `x` alone. -/
def unitAfter : Instr → Nat → RampUnit → RampUnit
  | .rinit u bound value dir, v, x => onlyAt u (RampUnit.afterInit bound value dir) v x
  | .rstep u sz, v, x => onlyAt u (RampUnit.afterStep sz) v x
  | .rup u sz, v, x => onlyAt u (RampUnit.afterUp sz) v x
  | .nop, _, x | .seti _ _ _ _, _, x | .pwmstep, _, x => x

/-- A pixel after SETI of it. -/
def State.pixelAfterSeti (s : State) (r g b : Nat) (x : Pixel) : Pixel :=
  { x with duty := s.lengthsAfter r g b x.duty }

/-- What an operation leaves in pixel `q`, from that pixel's registers `x`, the table and the counter. -/
def State.pixelAfter (s : State) : Instr → Nat → Pixel → Pixel
  | .seti p r g b, q, x => onlyAt p (s.pixelAfterSeti r g b) q x
  | .pwmstep, _, x => x.compare s.comparedCount
  | .nop, _, x | .rinit _ _ _ _, _, x | .rstep _ _, _, x | .rup _ _, _, x => x

/-- What an operation leaves in the counter. -/
def State.countAfter (s : State) : Instr → Byte
  | .pwmstep => s.nextCount
  | .nop | .seti _ _ _ _ | .rinit _ _ _ _ | .rstep _ _ | .rup _ _ => s.cnt

/-- The state an operation leaves where it completes (`exec_next`). -/
def State.after (s : State) (i : Instr) : State :=
  { s with
    pixels := s.pixels.mapIdx (s.pixelAfter i)
    cnt := s.countAfter i
    units := s.units.mapIdx (unitAfter i) }

@[simp] theorem after_lut (s : State) (i : Instr) : (s.after i).lut = s.lut := rfl
@[simp] theorem after_inputs (s : State) (i : Instr) : (s.after i).inputs = s.inputs := rfl
@[simp] theorem after_cnt (s : State) (i : Instr) : (s.after i).cnt = s.countAfter i := rfl
@[simp] theorem after_pixels (s : State) (i : Instr) :
    (s.after i).pixels = s.pixels.mapIdx (s.pixelAfter i) := rfl
@[simp] theorem after_units (s : State) (i : Instr) :
    (s.after i).units = s.units.mapIdx (unitAfter i) := rfl
@[simp] theorem after_pixelCount (s : State) (i : Instr) : (s.after i).pixelCount = s.pixelCount := by
  simp [State.pixelCount]
@[simp] theorem after_rampUnits (s : State) (i : Instr) : (s.after i).rampUnits = s.rampUnits := by
  simp [State.rampUnits]
@[simp] theorem after_params (s : State) (i : Instr) : (s.after i).params = s.params := by
  simp [State.params]
@[simp] theorem after_modulus (s : State) (i : Instr) : (s.after i).modulus = s.modulus := by
  simp [State.modulus]

/-! ## An operation that completes leaves that state -/

theorem setRampUnit_absent {s : State} {u : Nat} (h : s.hasUnit u = false) (x : RampUnit) :
    s.setRampUnit u x = s := by
  have hlen : s.units.length ≤ u := Nat.le_of_not_lt (of_decide_eq_false h)
  simp [State.setRampUnit, List.set_eq_of_length_le hlen]

theorem setPixel_absent {s : State} {p : Nat} (h : s.hasPixel p = false) (x : Pixel) :
    s.setPixel p x = s := by
  have hlen : s.pixels.length ≤ p := Nat.le_of_not_lt (of_decide_eq_false h)
  simp [State.setPixel, List.set_eq_of_length_le hlen]

/-- A ramp operation leaves its unit changed; an absent unit's change is no change. -/
theorem after_eq_setRampUnit {s : State} {i : Instr} {u : Nat} {f : RampUnit → RampUnit}
    (hpixel : ∀ q x, s.pixelAfter i q x = x) (hcnt : s.countAfter i = s.cnt)
    (hunit : unitAfter i = onlyAt u f) : s.after i = s.setRampUnit u (f (s.rampUnit u)) := by
  unfold State.after State.setRampUnit State.rampUnit
  rw [mapIdx_of_keeps hpixel, hcnt, hunit, set_getD_eq_mapIdx]

theorem after_rinit (s : State) (u bound value : Nat) (dir : Direction) :
    s.after (.rinit u bound value dir) =
      s.setRampUnit u ((s.rampUnit u).afterInit bound value dir) :=
  after_eq_setRampUnit (fun _ _ => rfl) rfl rfl

theorem after_rstep (s : State) (u sz : Nat) :
    s.after (.rstep u sz) = s.setRampUnit u ((s.rampUnit u).afterStep sz) :=
  after_eq_setRampUnit (fun _ _ => rfl) rfl rfl

theorem after_rup (s : State) (u sz : Nat) :
    s.after (.rup u sz) = s.setRampUnit u ((s.rampUnit u).afterUp sz) :=
  after_eq_setRampUnit (fun _ _ => rfl) rfl rfl

theorem after_seti (s : State) (p r g b : Nat) :
    s.after (.seti p r g b) = s.setPixel p (s.pixelAfterSeti r g b (s.pixel p)) := by
  unfold State.after State.setPixel State.pixel
  rw [set_getD_eq_mapIdx, mapIdx_of_keeps (f := unitAfter _) fun _ _ => rfl]
  rfl

theorem after_nop (s : State) : s.after .nop = s := by
  unfold State.after
  rw [mapIdx_of_keeps (f := s.pixelAfter .nop) fun _ _ => rfl,
    mapIdx_of_keeps (f := unitAfter .nop) fun _ _ => rfl]
  rfl

theorem after_pwmstep (s : State) : s.after .pwmstep =
    { s with pixels := s.pixels.map (Pixel.compare s.comparedCount), cnt := s.nextCount } := by
  have hpixels : s.pixels.mapIdx (s.pixelAfter .pwmstep) =
      s.pixels.map (Pixel.compare s.comparedCount) := by
    rw [List.mapIdx_eq_iff]
    intro q
    rw [List.getElem?_map]
    rfl
  unfold State.after
  rw [hpixels, mapIdx_of_keeps (f := unitAfter .pwmstep) fun _ _ => rfl]
  rfl

/-- A value above its bound leaves the unit as RINIT found it (rule R103). -/
theorem afterInit_above {bound value : Nat} (h : bound < value) (dir : Direction) (x : RampUnit) :
    x.afterInit bound value dir = x := if_neg (Nat.not_le.2 h)

theorem afterInit_within {bound value : Nat} (h : value ≤ bound) (dir : Direction) (x : RampUnit) :
    x.afterInit bound value dir = loadedUnit bound value dir := if_pos h

theorem setRampUnit_self (s : State) (u : Nat) : s.setRampUnit u (s.rampUnit u) = s := by
  have hset : s.units.set u (s.rampUnit u) = s.units :=
    (set_getD_eq_mapIdx s.units u _ id).trans
      (mapIdx_of_keeps (onlyAt_keeps id (fun _ => rfl) u) _)
  rw [State.setRampUnit, hset]

/-- Every operation that completes leaves exactly `State.after`. -/
theorem exec_next {i : Instr} {s t : State} (h : exec i s = .next t) : t = s.after i := by
  cases i with
  | nop => cases h; exact (after_nop s).symm
  | seti p r g b =>
    rw [after_seti]
    obtain ⟨habsent, rfl⟩ | ⟨-, rfl⟩ := execSeti_cases h
    · exact (setPixel_absent habsent _).symm
    · rfl
  | rinit u bound value dir =>
    rw [after_rinit]
    obtain ⟨habsent | habove, rfl⟩ | ⟨-, hwithin, rfl⟩ := execRinit_cases h
    · exact (setRampUnit_absent habsent _).symm
    · rw [afterInit_above habove, setRampUnit_self]
    · rw [afterInit_within hwithin]
  | rstep u sz =>
    rw [after_rstep]
    obtain ⟨habsent, rfl⟩ | ⟨-, -, rfl⟩ := execRstep_cases h
    · exact (setRampUnit_absent habsent _).symm
    · rfl
  | rup u sz =>
    rw [after_rup]
    obtain ⟨habsent, rfl⟩ | ⟨-, -, rfl⟩ := execRup_cases h
    · exact (setRampUnit_absent habsent _).symm
    · rfl
  | pwmstep => cases h; exact (after_pwmstep s).symm

/-! ## An edge is the operations its pins carry -/

/-- The operations a carrier carries: one, or none where it is rejected. -/
def OpWord.instrs (w : OpWord) : List Instr :=
  match decode w with
  | .op i => [i]
  | .rejected _ => []

/-- The operations of an edge without reset, in order (rule R72). -/
def EdgeInput.instrs (e : EdgeInput) : List Instr :=
  OpWord.instrs (.tick e.pwmTick) ++ if e.cmdValid then OpWord.instrs (.command e.cmd) else []

/-- The state a sequence of operations leaves where it completes. -/
def State.afterAll (s : State) (is : List Instr) : State := is.foldl State.after s

theorem runWord_afterAll {w : OpWord} {s t : State} (h : runWord w s = .next t) :
    t = s.afterAll (OpWord.instrs w) := by
  unfold OpWord.instrs
  obtain ⟨i, hdecode, hexec⟩ | ⟨why, hdecode, rfl⟩ := runWord_cases h
  · rw [hdecode]; exact exec_next hexec
  · simp [hdecode, State.afterAll]

theorem commandPart_afterAll {e : EdgeInput} {s t : State} (h : commandPart e s = .next t) :
    t = s.afterAll (if e.cmdValid then OpWord.instrs (.command e.cmd) else []) := by
  unfold commandPart at h
  split at h
  · rw [if_pos ‹_›]; exact runWord_afterAll h
  · cases h; rw [if_neg ‹_›]; rfl

/-- An edge that completes was a reset, or ran the operations its pins carry. -/
theorem clockEdge_next {e : EdgeInput} {s t : State} (h : clockEdge e s = .next t) :
    (e.rst = true ∧ t = s.resetBlock) ∨ (e.rst = false ∧ t = s.afterAll e.instrs) := by
  obtain hreset | ⟨hrst, s₁, htick, hcommand⟩ := clockEdge_cases h
  · exact .inl hreset
  · refine .inr ⟨hrst, ?_⟩
    rw [commandPart_afterAll hcommand, runWord_afterAll htick]
    exact (List.foldl_append ..).symm

theorem mem_opWord_instrs_iff {w : OpWord} {i : Instr} :
    i ∈ OpWord.instrs w ↔ decode w = .op i := by
  unfold OpWord.instrs
  cases decode w <;> simp [eq_comm]

/-- An operation of an edge is on the tick pin or on a valid command port. -/
theorem mem_instrs_iff {e : EdgeInput} {i : Instr} : i ∈ e.instrs ↔
    decode (.tick e.pwmTick) = .op i ∨ (e.cmdValid = true ∧ decode (.command e.cmd) = .op i) := by
  unfold EdgeInput.instrs
  rw [List.mem_append, mem_opWord_instrs_iff]
  cases e.cmdValid <;> simp [mem_opWord_instrs_iff]

/-- No command word is a PWM step (rule R78). -/
theorem decode_command_ne_pwmstep (w : CmdWord) : decode (.command w) ≠ .op .pwmstep := by
  change decodeCommand w ≠ _
  unfold decodeCommand
  split
  case h_6 => nofun
  all_goals split <;> nofun

/-- Without a tick, no operation of an edge is a PWM step. -/
theorem pwmstep_not_mem_instrs {e : EdgeInput} (htick : e.pwmTick = false) : .pwmstep ∉ e.instrs := by
  rw [mem_instrs_iff, htick]
  rintro (hdecode | ⟨-, hdecode⟩)
  · exact absurd hdecode (by decide)
  · exact decode_command_ne_pwmstep e.cmd hdecode

/-- Without a command, every operation of an edge is a PWM step. -/
theorem eq_pwmstep_of_mem_instrs {e : EdgeInput} (hcmd : e.cmdValid = false) {i : Instr}
    (hi : i ∈ e.instrs) : i = .pwmstep := by
  rw [mem_instrs_iff, hcmd] at hi
  obtain hdecode | ⟨hvalid, -⟩ := hi
  · cases htick : e.pwmTick <;> rw [htick] at hdecode <;> cases hdecode
    rfl
  · cases hvalid

theorem fitsByte_toNat (b : Byte) : fitsByte b.toNat = true := decide_eq_true b.isLt

theorem fitsUnit_toNat (u : BitVec 4) : fitsUnit u.toNat = true := decide_eq_true u.isLt

/-- The decoder answers only instructions whose operands fit their fields: they are fields. -/
theorem wellFormed_of_decode {w : OpWord} {i : Instr} (h : decode w = .op i) : i.WellFormed := by
  cases w with
  | tick level => cases level <;> cases h; rfl
  | command w =>
    change decodeCommand w = _ at h
    unfold decodeCommand at h
    split at h
    case h_6 => cases h
    all_goals
      split at h <;> cases h
      simp only [Instr.WellFormed, Instr.wellFormed, fitsByte_toNat, fitsUnit_toNat, Bool.and_self]

theorem wellFormed_of_mem_instrs {e : EdgeInput} {i : Instr} (hi : i ∈ e.instrs) : i.WellFormed :=
  (mem_instrs_iff.1 hi).elim wellFormed_of_decode fun hcommand => wellFormed_of_decode hcommand.2

/-! ## What every edge keeps -/

/-- A property that each operation of a sequence keeps, the sequence keeps. -/
theorem afterAll_preserves {P : State → Prop} {is : List Instr}
    (hafter : ∀ s, ∀ i ∈ is, P s → P (s.after i)) {s : State} (hs : P s) : P (s.afterAll is) :=
  List.foldlRecOn is State.after hs fun s hs i hi => hafter s i hi hs

/-- A property that reset and every well-formed operation keep, every edge keeps. -/
theorem clockEdge_preserves {P : State → Prop} (hreset : ∀ s, P s → P s.resetBlock)
    (hafter : ∀ s (i : Instr), i.WellFormed → P s → P (s.after i)) {e : EdgeInput} {s t : State}
    (h : clockEdge e s = .next t) (hs : P s) : P t := by
  obtain ⟨-, rfl⟩ | ⟨-, rfl⟩ := clockEdge_next h
  · exact hreset s hs
  · exact afterAll_preserves (fun s i hi => hafter s i (wellFormed_of_mem_instrs hi)) hs

/-- A property that every edge keeps, a run keeps. -/
theorem runEdges_preserves {P : State → Prop}
    (hedge : ∀ e s t, clockEdge e s = .next t → P s → P t) {es : List EdgeInput} {s t : State}
    (h : runEdges es s = .next t) (hs : P s) : P t := by
  induction es generalizing s with
  | nil => cases h; exact hs
  | cons e es ih =>
    obtain ⟨s₁, hfirst, hrest⟩ := andThen_eq_next h
    exact ih hrest (hedge e s s₁ hfirst hs)

end Sys2Proof.Machine
end

section
/-! The invariants of the state (rules R23, R24, R31) and the parameters (rules R33, R191): they hold at
reset, and each operation keeps them, so every edge, step and run does. -/

namespace Sys2Proof.Machine

/-! ## Parameters and inputs -/

theorem clockEdge_params {e : EdgeInput} {s t : State} (h : clockEdge e s = .next t) :
    t.params = s.params :=
  clockEdge_preserves (P := fun x => x.params = s.params) (fun x hx => (resetBlock_params x).trans hx)
    (fun x i _ hx => (after_params x i).trans hx) h rfl

theorem clockEdge_inputs {e : EdgeInput} {s t : State} (h : clockEdge e s = .next t) :
    t.inputs = s.inputs :=
  clockEdge_preserves (P := fun x => x.inputs = s.inputs) (fun x hx => (resetBlock_inputs x).trans hx)
    (fun x i _ hx => (after_inputs x i).trans hx) h rfl

/-- Settles O50: a step is a clock edge on the state whose next input is taken, and neither the edge's
operations nor reset write the parameters or the inputs. -/
theorem parametersNeverChange : Obligations.ParametersNeverChange := fun s _ h =>
  ⟨clockEdge_params (s := s.dropInput) h, clockEdge_inputs (s := s.dropInput) h⟩

/-! ## Values within bounds (rule R31) -/

/-- One unit's part of rule R31. -/
def RampUnit.WithinBound (x : RampUnit) : Prop := x.rv.toNat ≤ x.rb.toNat

/-- A number up to a byte's value is narrowed to itself. -/
theorem byteOf_le {n : Nat} {b : Byte} (h : n ≤ b.toNat) : (byteOf n).toNat ≤ b.toNat := by
  rwa [byteOf_toNat (by omega)]

/-- A ramp step of any size ends within the bound (rule R111). -/
theorem rampStep_le {bound value : Nat} (h : value ≤ bound) (dir : Direction) (sz : Nat) :
    (rampStep bound dir value sz).value ≤ bound := by
  cases dir with
  | rising =>
    obtain ⟨hlt, hres⟩ | ⟨-, hres⟩ := rampStepRising_cases bound value sz
    · simpa [rampStep, hres] using hlt.le
    · simp [rampStep, hres]
  | falling =>
    obtain ⟨-, hres⟩ | ⟨-, hres⟩ := rampStepFalling_cases value sz
    · simp [rampStep, hres]; omega
    · simp [rampStep, hres]

theorem rampUpValue_le (bound value sz : Nat) : rampUpValue bound value sz ≤ bound := by
  obtain ⟨hle, hres, -⟩ | ⟨-, hres, -⟩ := rampUp_cases bound value sz
  · exact hres ▸ hle
  · exact hres ▸ Nat.zero_le bound

theorem afterStep_withinBound (sz : Nat) {x : RampUnit} (h : x.WithinBound) :
    (x.afterStep sz).WithinBound := byteOf_le (rampStep_le h x.rd sz)

theorem afterUp_withinBound (sz : Nat) (x : RampUnit) : (x.afterUp sz).WithinBound :=
  byteOf_le (rampUpValue_le _ _ sz)

/-- RINIT loads both operands narrowed to a byte. -/
theorem afterInit_withinBound {bound : Nat} (hbound : bound < 256) (value : Nat) (dir : Direction)
    {x : RampUnit} (h : x.WithinBound) : (x.afterInit bound value dir).WithinBound := by
  unfold RampUnit.afterInit
  split
  · exact byteOf_le (b := byteOf bound) (by rwa [byteOf_toNat hbound])
  · exact h

theorem unitAfter_withinBound {i : Instr} (hi : i.WellFormed) (v : Nat) {x : RampUnit}
    (h : x.WithinBound) : (unitAfter i v x).WithinBound := by
  cases i with
  | rinit u bound value dir =>
    have hbound : bound < 256 := by
      simp only [Instr.WellFormed, Instr.wellFormed, Bool.and_eq_true, decide_eq_true_eq] at hi
      obtain ⟨⟨-, hbound⟩, -⟩ := hi
      exact hbound
    exact onlyAt_preserves (afterInit_withinBound hbound value dir) u v h
  | rstep u sz => exact onlyAt_preserves (afterStep_withinBound sz) u v h
  | rup u sz => exact onlyAt_preserves (fun _ => afterUp_withinBound sz x) u v h
  | nop | seti | pwmstep => exact h

theorem after_valuesWithinBounds {i : Instr} (hi : i.WellFormed) {s : State}
    (h : s.ValuesWithinBounds) : (s.after i).ValuesWithinBounds :=
  forall_mem_mapIdx (P := RampUnit.WithinBound) (fun v _ => unitAfter_withinBound hi v) h

/-! ## Lengths from the table (rule R23) -/

/-- One pixel's part of rule R23. -/
def Pixel.FromTable (lut : List Byte) (x : Pixel) : Prop :=
  lengthFromTable lut x.duty.red ∧ lengthFromTable lut x.duty.green ∧ lengthFromTable lut x.duty.blue

/-- An index in range reads an entry of the table (rule R12); where the table is empty, its default. -/
theorem lutRead_fromTable {s : State} {v : Nat} (h : v ≤ s.maxIntensity) :
    lengthFromTable s.lut (s.lutRead v) := by
  change v ≤ s.lut.length - 1 at h
  rcases Nat.lt_or_ge v s.lut.length with hv | hv
  · exact .inr (by simp [State.lutRead, hv])
  · exact .inl (by simp [State.lutRead, hv])

theorem channelAfter_fromTable (s : State) (v : Nat) {d : Byte} (h : lengthFromTable s.lut d) :
    lengthFromTable s.lut (s.channelAfter v d) := by
  obtain ⟨hv, hres⟩ | ⟨-, hres⟩ := channelAfter_cases s v d
  · rw [hres]; exact lutRead_fromTable hv
  · rwa [hres]

theorem pixelAfterSeti_fromTable (s : State) (r g b : Nat) {x : Pixel} (h : x.FromTable s.lut) :
    (s.pixelAfterSeti r g b x).FromTable s.lut := by
  obtain ⟨hred, hgreen, hblue⟩ := h
  exact ⟨channelAfter_fromTable s r hred, channelAfter_fromTable s g hgreen,
    channelAfter_fromTable s b hblue⟩

theorem pixelAfter_fromTable (s : State) (i : Instr) (q : Nat) {x : Pixel} (h : x.FromTable s.lut) :
    (s.pixelAfter i q x).FromTable s.lut := by
  cases i with
  | seti p r g b => exact onlyAt_preserves (pixelAfterSeti_fromTable s r g b) p q h
  | nop | rinit | rstep | rup | pwmstep => exact h

theorem after_dutyFromTable (i : Instr) {s : State} (h : s.DutyFromTable) :
    (s.after i).DutyFromTable :=
  forall_mem_mapIdx (P := Pixel.FromTable s.lut) (fun q _ => pixelAfter_fromTable s i q) h

/-! ## The counter below the modulus (rule R24) -/

theorem nextCount_lt {s : State} (h : s.CountBelowModulus) : s.nextCount.toNat < s.modulus := by
  rw [nextCount_toNat h]
  split <;> omega

theorem after_countBelowModulus (i : Instr) {s : State} (h : s.CountBelowModulus) :
    (s.after i).CountBelowModulus := by
  rw [State.CountBelowModulus, after_modulus, after_cnt]
  cases i with
  | pwmstep => exact nextCount_lt h
  | nop | seti | rinit | rstep | rup => exact h

/-! ## The invariants together -/

theorem after_inv {i : Instr} (hi : i.WellFormed) {s : State} (h : s.Inv) : (s.after i).Inv := by
  obtain ⟨hlegal, hduty, hcount, hvalues⟩ := h
  exact ⟨(after_params s i).symm ▸ hlegal, after_dutyFromTable i hduty,
    after_countBelowModulus i hcount, after_valuesWithinBounds hi hvalues⟩

/-- A reset block with legal parameters is sound, whatever it held (rule R41). -/
theorem resetBlock_inv {s : State} (h : s.params.Legal) : s.resetBlock.Inv := by
  have ⟨_, _, _, hmodulus, _⟩ := h
  refine ⟨(resetBlock_params s).symm ▸ h, fun x hx => ?_, ?_, fun x hx => ?_⟩
  · rw [List.eq_of_mem_replicate hx]
    exact ⟨.inl rfl, .inl rfl, .inl rfl⟩
  · rw [State.CountBelowModulus, State.modulus, resetBlock_params]
    exact hmodulus
  · rw [List.eq_of_mem_replicate hx]
    exact Nat.le_refl 0

theorem clockEdge_inv {e : EdgeInput} {s t : State} (h : clockEdge e s = .next t) (hs : s.Inv) : t.Inv :=
  clockEdge_preserves (fun _ hx => resetBlock_inv hx.1) (fun _ _ hi hx => after_inv hi hx) h hs

/-- Settles O48: taking the input leaves the block's state, and the edge is reset or operations that each
keep every invariant. -/
theorem stepKeepsTheInvariants : Obligations.StepKeepsTheInvariants := fun s _ hs h =>
  clockEdge_inv (s := s.dropInput) h hs

/-! ## The reset state -/

@[simp] theorem resetWith_params (P : Params) : (State.resetWith P).params = P := by
  simp [State.resetWith, State.params, State.pixelCount, State.rampUnits]

/-- The state a run starts from is what a reset edge leaves of itself. -/
theorem resetWith_resetBlock (P : Params) : (State.resetWith P).resetBlock = State.resetWith P := by
  simp [State.resetWith, State.resetBlock, State.pixelCount, State.rampUnits]

theorem resetWith_inv {P : Params} (h : P.Legal) : (State.resetWith P).Inv := by
  rw [← resetWith_resetBlock]
  exact resetBlock_inv ((resetWith_params P).symm ▸ h)

theorem default_legal : Params.default.Legal := by decide

/-- Settles O47: the default parameters of rule R6 are legal. -/
theorem resetMeetsTheInvariants : Obligations.ResetMeetsTheInvariants :=
  ⟨resetWith_inv default_legal, fun _ => resetWith_inv⟩

/-- Settles O49, by induction on the inputs: the invariants and the parameters hold at the reset state,
and every edge keeps both. -/
theorem everyReachableStateIsSound : Obligations.EveryReachableStateIsSound := fun P _ _ hP h =>
  runEdges_preserves (P := fun s => s.Inv ∧ s.params = P)
    (fun _ _ _ hedge hs => ⟨clockEdge_inv hedge hs.1, (clockEdge_params hedge).trans hs.2⟩) h
    ⟨resetWith_inv hP, resetWith_params P⟩

/-! ## What a reset leaves (rule R41) -/

/-- Every register of a reset block reads as zero. -/
theorem resetBlock_registers (s : State) :
    (∀ p c, s.resetBlock.duty p c = 0 ∧ s.resetBlock.out p c = false) ∧ s.resetBlock.cnt = 0 ∧
      ∀ u, s.resetBlock.rampUnit u = ⟨0, 0, .rising, false⟩ := by
  refine ⟨fun p c => ?_, resetBlock_cnt s, resetBlock_rampUnit s⟩
  rw [State.duty, State.out, resetBlock_pixel]
  cases c <;> exact ⟨rfl, rfl⟩

theorem clockEdge_reset {e : EdgeInput} (h : e.rst = true) (s : State) :
    clockEdge e s = .next s.resetBlock := if_pos h

/-- Settles O9: a reset edge leaves `resetBlock`, whose registers all read as zero. -/
theorem resetEdgeZeroesEverything : Obligations.ResetEdgeZeroesEverything := by
  intro e s he
  obtain ⟨hpixels, hcnt, hunits⟩ := resetBlock_registers s
  refine ⟨_, clockEdge_reset he s, hpixels, hcnt, fun u => ?_, resetBlock_params s, resetBlock_inputs s⟩
  simp [State.rb, State.rv, State.rd, State.rc, hunits u]

/-- Settles O10: the state a run starts from is a reset block. -/
theorem resetStateIsZero : Obligations.ResetStateIsZero := by
  refine ⟨fun P => ?_, rfl⟩
  obtain ⟨hpixels, hcnt, hunits⟩ := resetBlock_registers (State.resetWith P)
  rw [resetWith_resetBlock] at hpixels hcnt hunits
  exact ⟨resetWith_params P, rfl, hcnt, hpixels, hunits⟩

end Sys2Proof.Machine
end

section
/-! What an operation touches (rules R26, R37), what the ports show of it (rule R40), and what holds
between the operations that write it (rules R25, R28 to R30, R36). -/

namespace Sys2Proof.Machine

section WriteColumns

variable {i : Instr}

/-! ## The write columns of the access matrix, entry by entry (rule R37) -/

theorem pixelAfter_duty (hseti : ∀ p r g b, i ≠ .seti p r g b) (s : State) (q : Nat) (x : Pixel) :
    (s.pixelAfter i q x).duty = x.duty := by
  cases i with
  | seti p r g b => exact absurd rfl (hseti p r g b)
  | nop | rinit | rstep | rup | pwmstep => rfl

theorem pixelAfter_out (hpwmstep : i ≠ .pwmstep) (s : State) (q : Nat) (x : Pixel) :
    (s.pixelAfter i q x).out = x.out := by
  cases i with
  | pwmstep => exact absurd rfl hpwmstep
  | seti p r g b => exact onlyAt_keeps (f := s.pixelAfterSeti r g b) Pixel.out (fun _ => rfl) p q x
  | nop | rinit | rstep | rup => rfl

theorem countAfter_eq (hpwmstep : i ≠ .pwmstep) (s : State) : s.countAfter i = s.cnt := by
  cases i with
  | pwmstep => exact absurd rfl hpwmstep
  | nop | seti | rinit | rstep | rup => rfl

theorem unitAfter_rb (hrinit : ∀ u bound value dir, i ≠ .rinit u bound value dir) (v : Nat)
    (x : RampUnit) : (unitAfter i v x).rb = x.rb := by
  cases i with
  | rinit u bound value dir => exact absurd rfl (hrinit u bound value dir)
  | rstep u sz => exact onlyAt_keeps (f := RampUnit.afterStep sz) RampUnit.rb (fun _ => rfl) u v x
  | rup u sz => exact onlyAt_keeps (f := RampUnit.afterUp sz) RampUnit.rb (fun _ => rfl) u v x
  | nop | seti | pwmstep => rfl

theorem unitAfter_rd (hrinit : ∀ u bound value dir, i ≠ .rinit u bound value dir)
    (hrstep : ∀ u sz, i ≠ .rstep u sz) (v : Nat) (x : RampUnit) : (unitAfter i v x).rd = x.rd := by
  cases i with
  | rinit u bound value dir => exact absurd rfl (hrinit u bound value dir)
  | rstep u sz => exact absurd rfl (hrstep u sz)
  | rup u sz => exact onlyAt_keeps (f := RampUnit.afterUp sz) RampUnit.rd (fun _ => rfl) u v x
  | nop | seti | pwmstep => rfl

theorem unitAfter_eq (hrinit : ∀ u bound value dir, i ≠ .rinit u bound value dir)
    (hrstep : ∀ u sz, i ≠ .rstep u sz) (hrup : ∀ u sz, i ≠ .rup u sz) (v : Nat) (x : RampUnit) :
    unitAfter i v x = x := by
  cases i with
  | rinit u bound value dir => exact absurd rfl (hrinit u bound value dir)
  | rstep u sz => exact absurd rfl (hrstep u sz)
  | rup u sz => exact absurd rfl (hrup u sz)
  | nop | seti | pwmstep => rfl

/-! ## The same columns on the state -/

theorem after_duty (hseti : ∀ p r g b, i ≠ .seti p r g b) (s : State) (p : Nat) (c : Channel) :
    (s.after i).duty p c = s.duty p c :=
  congrArg (Rgb.get · c) (getD_mapIdx_keeps Pixel.duty (pixelAfter_duty hseti s) s.pixels p Pixel.zero)

theorem after_out (hpwmstep : i ≠ .pwmstep) (s : State) (p : Nat) (c : Channel) :
    (s.after i).out p c = s.out p c :=
  congrArg (Rgb.get · c) (getD_mapIdx_keeps Pixel.out (pixelAfter_out hpwmstep s) s.pixels p Pixel.zero)

theorem after_rb (hrinit : ∀ u bound value dir, i ≠ .rinit u bound value dir) (s : State) (u : Nat) :
    (s.after i).rb u = s.rb u :=
  getD_mapIdx_keeps RampUnit.rb (unitAfter_rb hrinit) s.units u RampUnit.zero

theorem after_rd (hrinit : ∀ u bound value dir, i ≠ .rinit u bound value dir)
    (hrstep : ∀ u sz, i ≠ .rstep u sz) (s : State) (u : Nat) : (s.after i).rd u = s.rd u :=
  getD_mapIdx_keeps RampUnit.rd (unitAfter_rd hrinit hrstep) s.units u RampUnit.zero

end WriteColumns

/-- Settles O44: each column is kept entry by entry by the operations outside it. -/
theorem accessMatrixWrites : Obligations.AccessMatrixWrites := by
  intro i s t h
  obtain rfl := exec_next h
  exact ⟨after_params s i, after_inputs s i, fun hseti => after_duty hseti s,
    fun hpwmstep => ⟨countAfter_eq hpwmstep s, after_out hpwmstep s⟩,
    fun hrinit => ⟨after_rb hrinit s, fun hrstep => ⟨after_rd hrinit hrstep s,
      fun hrup => mapIdx_of_keeps (unitAfter_eq hrinit hrstep hrup) s.units⟩⟩⟩

/-! ## Units share nothing (rule R26) -/

/-- Unit `u` after an operation, from unit `u` before it; past the bank nothing is there to change. -/
theorem rampUnit_after (s : State) (i : Instr) (u : Nat) : (s.after i).rampUnit u =
    if u < s.rampUnits then unitAfter i u (s.rampUnit u) else RampUnit.zero := by
  unfold State.rampUnit State.rampUnits
  split
  · simp [‹u < s.units.length›]
  · simp [Nat.le_of_not_lt ‹¬u < s.units.length›]

/-- Settles O46: `unitAfter` reads unit `u` alone, and whether it exists is the size of the bank. -/
theorem unitsShareNothing : Obligations.UnitsShareNothing := by
  intro i u s₁ s₂ t₁ t₂ hsize hunit h₁ h₂
  rw [exec_next h₁, exec_next h₂, rampUnit_after, rampUnit_after, hsize, hunit]

/-! ## The renderer and the ramp units (rule R37) -/

/-- Two states the renderer cannot tell apart: the same table, pixels and counter. -/
def SameRenderer (s₁ s₂ : State) : Prop :=
  s₁.lut = s₂.lut ∧ s₁.pixels = s₂.pixels ∧ s₁.cnt = s₂.cnt

/-- What an operation leaves in a pixel reads the table and the counter, and nothing else of the state. -/
theorem pixelAfter_congr {s₁ s₂ : State} (hlut : s₁.lut = s₂.lut) (hcnt : s₁.cnt = s₂.cnt) (i : Instr) :
    s₁.pixelAfter i = s₂.pixelAfter i := by
  cases s₁; cases s₂; cases hlut; cases hcnt
  cases i <;> rfl

/-- So does what it leaves in the counter: the modulus is an entry of the table. -/
theorem countAfter_congr {s₁ s₂ : State} (hlut : s₁.lut = s₂.lut) (hcnt : s₁.cnt = s₂.cnt) (i : Instr) :
    s₁.countAfter i = s₂.countAfter i := by
  cases s₁; cases s₂; cases hlut; cases hcnt
  cases i <;> rfl

theorem sameRenderer_after {s₁ s₂ : State} (h : SameRenderer s₁ s₂) (i : Instr) :
    SameRenderer (s₁.after i) (s₂.after i) := by
  obtain ⟨hlut, hpixels, hcnt⟩ := h
  refine ⟨hlut, ?_, countAfter_congr hlut hcnt i⟩
  rw [after_pixels, after_pixels, hpixels, pixelAfter_congr hlut hcnt]

theorem sameRenderer_resetBlock {s₁ s₂ : State} (h : SameRenderer s₁ s₂) :
    SameRenderer s₁.resetBlock s₂.resetBlock := by
  obtain ⟨hlut, hpixels, -⟩ := h
  refine ⟨hlut, ?_, rfl⟩
  simp only [resetBlock_pixels, State.pixelCount, hpixels]

theorem sameUnits_after {s₁ s₂ : State} (h : s₁.units = s₂.units) (i : Instr) :
    (s₁.after i).units = (s₂.after i).units := congrArg (List.mapIdx (unitAfter i)) h

theorem sameUnits_resetBlock {s₁ s₂ : State} (h : s₁.units = s₂.units) :
    s₁.resetBlock.units = s₂.resetBlock.units := by
  simp only [resetBlock_units, State.rampUnits, h]

/-- A relation between two states that reset and every operation keep, every edge that both complete
keeps. -/
theorem clockEdge_preserves_rel {R : State → State → Prop}
    (hreset : ∀ x y, R x y → R x.resetBlock y.resetBlock)
    (hafter : ∀ i x y, R x y → R (x.after i) (y.after i)) {e : EdgeInput} {s₁ s₂ t₁ t₂ : State}
    (h₁ : clockEdge e s₁ = .next t₁) (h₂ : clockEdge e s₂ = .next t₂) (hs : R s₁ s₂) : R t₁ t₂ := by
  obtain ⟨hrst, rfl⟩ | ⟨hrst, rfl⟩ := clockEdge_next h₁ <;>
    obtain ⟨hrst', rfl⟩ | ⟨hrst', rfl⟩ := clockEdge_next h₂
  · exact hreset s₁ s₂ hs
  · simp [hrst] at hrst'
  · simp [hrst] at hrst'
  · exact List.foldl_rel hs fun i _ x y => hafter i x y

/-- Settles O45: each sub-block's part of every operation and of reset is a function of that sub-block
(and the table) alone. -/
theorem subBlocksDoNotInteract : Obligations.SubBlocksDoNotInteract := by
  intro e s₁ s₂ t₁ t₂ h₁ h₂
  refine ⟨fun hlut hpixels hcnt => ?_, ?_⟩
  · have ⟨_, hpixels', hcnt'⟩ := clockEdge_preserves_rel (R := SameRenderer)
      (fun _ _ => sameRenderer_resetBlock) (fun i _ _ h => sameRenderer_after h i) h₁ h₂
      ⟨hlut, hpixels, hcnt⟩
    exact ⟨hpixels', hcnt'⟩
  · exact clockEdge_preserves_rel (R := fun x y => x.units = y.units)
      (fun _ _ => sameUnits_resetBlock) (fun i _ _ h => sameUnits_after h i) h₁ h₂

/-! ## What the ports show (rule R40) -/

theorem numberOfBits_testBit (bits : List Bool) (k : Nat) :
    (numberOfBits bits).testBit k = bits.getD k false := by
  induction bits generalizing k with
  | nil => simp [numberOfBits]
  | cons x xs ih =>
    have hbit : numberOfBits (x :: xs) = Nat.bit x (numberOfBits xs) := by
      cases x <;> simp [numberOfBits, Nat.bit, Nat.add_comm]
    rw [hbit]
    cases k with
    | zero => rw [Nat.testBit_bit_zero]; rfl
    | succ k => rw [Nat.testBit_bit_succ, ih]; rfl

/-- Lane `3*p + c` is output `c` of pixel `p`; past the last pixel both are off. -/
theorem outLanes_getD (pixels : List Pixel) (p : Nat) (c : Channel) :
    (outLanes pixels).getD (3 * p + channelIndex c) false = (pixels.getD p Pixel.zero).out.get c := by
  induction pixels generalizing p with
  | nil => cases c <;> rfl
  | cons x xs ih =>
    cases p with
    | zero => cases c <;> rfl
    | succ p =>
      have hskip : 3 * (p + 1) + channelIndex c = 3 * p + channelIndex c + 3 := by omega
      rw [hskip]
      exact ih p

theorem outPort_getLsbD {s : State} {p : Nat} (hp : p < s.pixelCount) (c : Channel) :
    s.outPort.getLsbD (3 * p + channelIndex c) = s.out p c := by
  have hlane : 3 * p + channelIndex c < 3 * s.pixelCount := by
    cases c <;> simp only [channelIndex] <;> omega
  rw [State.outPort, BitVec.getLsbD_ofNat, numberOfBits_testBit, outLanes_getD]
  simp [hlane, State.out, State.pixel]

/-- Rule R29's bit for the direction. -/
theorem direction_bit_eq_zero_iff (d : Direction) : BitVec.ofBool d.toBit = 0 ↔ d = .rising := by
  cases d <;> decide

theorem ofBool_eq_one_iff (b : Bool) : BitVec.ofBool b = 1 ↔ b = true := by
  cases b <;> decide

/-- Settles O41: bit `k` of the port is lane `k`, by induction on the lanes. -/
theorem portsShowTheState : Obligations.PortsShowTheState := fun s =>
  ⟨fun _ c hp => outPort_getLsbD hp c, fun u =>
    ⟨rfl, direction_bit_eq_zero_iff (s.rd u), ofBool_eq_one_iff (s.rc u)⟩⟩

/-! ## What the ports hold (rules R25, R28 to R30, R36) -/

/-- The lanes are a matter of the outputs alone. -/
theorem outLanes_mapIdx {f : Nat → Pixel → Pixel} (hf : ∀ q x, (f q x).out = x.out) (pixels : List Pixel) :
    outLanes (pixels.mapIdx f) = outLanes pixels := by
  induction pixels generalizing f with
  | nil => rfl
  | cons x xs ih => rw [List.mapIdx_cons, outLanes, outLanes, hf, ih fun q => hf (q + 1)]

/-- Settles O42: without a tick no operation of the edge writes an output, and without a command the only
one is the PWM step, which writes no unit. -/
theorem outputsHoldBetweenPwmSteps : Obligations.OutputsHoldBetweenPwmSteps := by
  intro e s t hrst h
  obtain ⟨hreset, -⟩ | ⟨-, rfl⟩ := clockEdge_next h
  · simp [hrst] at hreset
  refine ⟨fun htick => ?_, fun hcmd => ?_⟩
  · refine afterAll_preserves (P := fun x => outLanes x.pixels = outLanes s.pixels) ?_ rfl
    intro x i hi hx
    have hne : i ≠ .pwmstep := fun heq => pwmstep_not_mem_instrs htick (heq ▸ hi)
    exact (outLanes_mapIdx (pixelAfter_out hne x) x.pixels).trans hx
  · have hunits : (s.afterAll e.instrs).units = s.units := by
      refine afterAll_preserves (P := fun x => x.units = s.units) ?_ rfl
      intro x i hi hx
      rw [eq_pwmstep_of_mem_instrs hcmd hi]
      exact (mapIdx_of_keeps (f := unitAfter .pwmstep) (fun _ _ => rfl) x.units).trans hx
    simp only [State.outputs, hunits]

end Sys2Proof.Machine
end

section
/-! The table (rules R51 to R56): on legal parameters its last entry is its largest, and the reference
table is one such. -/

namespace Sys2Proof

/-- A later entry of a non-decreasing table is at least as large (rule R53). -/
theorem Params.lut_getD_mono {P : Params} (h : P.Monotone) {i j : Nat} (hij : i ≤ j)
    (hj : j < P.lut.length) : (P.lut.getD i 0).toNat ≤ (P.lut.getD j 0).toNat := by
  rcases hij.eq_or_lt with rfl | hlt
  · exact le_rfl
  · have hi : i < P.lut.length := hlt.trans hj
    rw [List.getD_eq_getElem _ _ hi, List.getD_eq_getElem _ _ hj]
    exact List.pairwise_iff_getElem.1 h i j hi hj hlt

/-- A legal table is not empty, so `MAX_INTENSITY` is one of its indices (rules R6, R51). -/
theorem Params.maxIntensity_lt_length {P : Params} (h : P.Legal) : P.maxIntensity < P.lut.length := by
  obtain ⟨-, ⟨hlength, -⟩, -⟩ := h
  unfold Params.maxIntensity
  omega

/-- Settles O39: the table does not decrease up to `MAX_INTENSITY`, where the modulus is read. -/
theorem modulusIsTheLargestEntry : Obligations.ModulusIsTheLargestEntry := by
  intro P hlegal
  have ⟨_, _, hmonotone, hmodulus, _⟩ := hlegal
  exact ⟨fun _ hi => Params.lut_getD_mono hmonotone hi (Params.maxIntensity_lt_length hlegal), rfl,
    hmodulus⟩

/-! ## The reference table (rule R56) -/

theorem refLut_length : refLut.length = 64 := by simp [refLut]

/-- Rule R56's formula fits a byte over the whole index range. -/
theorem refLut_formula_lt {i : Nat} (hi : i < 64) : (255 * i * i + 3968) / 3969 < 256 := by
  have hsquare : i * i ≤ 63 * 63 := Nat.mul_le_mul (by omega) (by omega)
  rw [Nat.mul_assoc]
  omega

theorem refLut_getD_toNat {i : Nat} (hi : i < 64) :
    (refLut.getD i 0).toNat = (255 * i * i + 3968) / 3969 := by
  have hentry : refLut.getD i 0 = BitVec.ofNat 8 ((255 * i * i + 3968) / 3969) := by
    simp [refLut, hi]
  rw [hentry, BitVec.toNat_ofNat, Nat.mod_eq_of_lt (refLut_formula_lt hi)]

theorem default_maxIntensity : Params.default.maxIntensity = 63 :=
  congrArg (· - 1) refLut_length

/-- Settles O40: the formula never leaves the byte, and the modulus is its value at 63. -/
theorem referenceTableIsLegal : Obligations.ReferenceTableIsLegal := by
  refine ⟨fun _ => refLut_getD_toNat, refLut_length, Machine.default_legal, default_maxIntensity, ?_⟩
  rw [Params.modulus, default_maxIntensity]
  exact refLut_getD_toNat (by decide)

end Sys2Proof
end

section
/-! SETI repeated (rules R60, R131): it stores table entries, which the second SETI reads and stores
again, or keeps what it finds. -/

namespace Sys2Proof.Machine

theorem channelAfter_idem (s : State) (v : Nat) (old : Byte) :
    s.channelAfter v (s.channelAfter v old) = s.channelAfter v old := by
  unfold State.channelAfter
  split <;> rfl

theorem pixelAfterSeti_idem (s : State) (r g b : Nat) (x : Pixel) :
    s.pixelAfterSeti r g b (s.pixelAfterSeti r g b x) = s.pixelAfterSeti r g b x := by
  simp only [State.pixelAfterSeti, State.lengthsAfter, channelAfter_idem]

/-- What SETI stores depends on the table, not on the pixels. -/
@[simp] theorem setPixel_pixelAfterSeti (s : State) (p r g b : Nat) (x : Pixel) :
    (s.setPixel p x).pixelAfterSeti r g b = s.pixelAfterSeti r g b := rfl

@[simp] theorem setPixel_setPixel (s : State) (p : Nat) (x y : Pixel) :
    (s.setPixel p x).setPixel p y = s.setPixel p y := by
  simp [State.setPixel]

theorem exec_seti_present {s : State} {p : Nat} (h : p < s.pixelCount) (r g b : Nat) :
    exec (.seti p r g b) s = .next (s.setPixel p (s.pixelAfterSeti r g b (s.pixel p))) :=
  if_pos (decide_eq_true h)

/-- SETI finds in its pixel what it would store there. -/
theorem exec_seti_again {s : State} {p : Nat} (h : p < s.pixelCount) (r g b : Nat) (x : Pixel) :
    exec (.seti p r g b) (s.setPixel p (s.pixelAfterSeti r g b x)) =
      .next (s.setPixel p (s.pixelAfterSeti r g b x)) := by
  rw [exec_seti_present (by rwa [setPixel_pixelCount]), pixel_setPixel_same h,
    setPixel_pixelAfterSeti, pixelAfterSeti_idem, setPixel_setPixel]

/-- Settles O32: an absent pixel leaves the state as it was; a present one already holds what the second
SETI stores. -/
theorem setiTwiceIsSetiOnce : Obligations.SetiTwiceIsSetiOnce := by
  intro p r g b s t h
  obtain ⟨-, rfl⟩ | ⟨hpixel, rfl⟩ := execSeti_cases h
  · exact h
  · exact exec_seti_again (of_decide_eq_true hpixel) r g b (s.pixel p)

end Sys2Proof.Machine
end

section
/-! The decoder and the encoder (rules R71, R73 to R75, R78): a command word is format C of its fields, so
a mask test, a pattern and a reserved word are each said of the fields, one by one. -/

namespace Sys2Proof

open Machine

/-! ## Words and fields -/

/-- A word is format C of six values exactly when they are its fields. -/
theorem formatC_eq_iff {op u : BitVec 4} {a b c d : Byte} {w : CmdWord} :
    formatC op u a b c d = w ↔ opField w = op ∧ unitField w = u ∧ aField w = a ∧ bField w = b ∧
      cField w = c ∧ dField w = d := by
  constructor
  · rintro rfl
    simp
  · rintro ⟨rfl, rfl, rfl, rfl, rfl, rfl⟩
    exact formatC_fields w

/-- A test under a mask is a test of each field under the mask's field (rule R73). -/
theorem and_formatC_eq_iff {w : CmdWord} {op u op' u' : BitVec 4} {a b c d a' b' c' d' : Byte} :
    w &&& formatC op u a b c d = formatC op' u' a' b' c' d' ↔
      opField w &&& op = op' ∧ unitField w &&& u = u' ∧ aField w &&& a = a' ∧
        bField w &&& b = b' ∧ cField w &&& c = c' ∧ dField w &&& d = d' := by
  have hop : opField (w &&& formatC op u a b c d) = opField w &&& op :=
    BitVec.extractLsb'_and.trans (congrArg _ (opField_formatC ..))
  have hu : unitField (w &&& formatC op u a b c d) = unitField w &&& u :=
    BitVec.extractLsb'_and.trans (congrArg _ (unitField_formatC ..))
  have ha : aField (w &&& formatC op u a b c d) = aField w &&& a :=
    BitVec.extractLsb'_and.trans (congrArg _ (aField_formatC ..))
  have hb : bField (w &&& formatC op u a b c d) = bField w &&& b :=
    BitVec.extractLsb'_and.trans (congrArg _ (bField_formatC ..))
  have hc : cField (w &&& formatC op u a b c d) = cField w &&& c :=
    BitVec.extractLsb'_and.trans (congrArg _ (cField_formatC ..))
  have hd : dField (w &&& formatC op u a b c d) = dField w &&& d :=
    BitVec.extractLsb'_and.trans (congrArg _ (dField_formatC ..))
  rw [eq_comm, formatC_eq_iff, hop, hu, ha, hb, hc, hd]

/-- Two neighbouring ranges of bits are zero exactly when the range they make up is. -/
theorem extractLsb'_add_eq_zero_iff {k : Nat} (x : BitVec k) (start m n : Nat) :
    x.extractLsb' start (n + m) = 0 ↔
      x.extractLsb' (start + n) m = 0 ∧ x.extractLsb' start n = 0 := by
  constructor
  · intro h
    constructor
    · ext i hi
      simpa [hi, Nat.add_assoc] using congrArg (BitVec.getLsbD · (n + i)) h
    · ext i hi
      simpa [Nat.lt_add_right m hi] using congrArg (BitVec.getLsbD · i) h
  · rintro ⟨hhigh, hlow⟩
    ext i hi
    rcases Nat.lt_or_ge i n with hin | hin
    · simpa [hin] using congrArg (BitVec.getLsbD · i) hlow
    · obtain ⟨j, rfl⟩ := Nat.exists_eq_add_of_le hin
      simpa [Nat.lt_of_add_lt_add_left hi, Nat.add_assoc] using congrArg (BitVec.getLsbD · j) hhigh

/-- Bits 23 to 0 are the fields `b`, `c` and `d`. -/
theorem low24_eq_zero_iff (w : CmdWord) :
    w.extractLsb' 0 24 = 0 ↔ bField w = 0 ∧ cField w = 0 ∧ dField w = 0 :=
  (extractLsb'_add_eq_zero_iff w 0 8 16).trans
    (and_congr_right' (extractLsb'_add_eq_zero_iff w 0 8 8))

/-- Bits 35 to 0 are every field but `op`. -/
theorem low36_eq_zero_iff (w : CmdWord) :
    w.extractLsb' 0 36 = 0 ↔ unitField w = 0 ∧ aField w = 0 ∧ bField w = 0 ∧ cField w = 0 ∧
      dField w = 0 :=
  (extractLsb'_add_eq_zero_iff w 0 4 32).trans (and_congr_right'
    ((extractLsb'_add_eq_zero_iff w 0 8 24).trans (and_congr_right' (low24_eq_zero_iff w))))

/-! ## Operands in their fields -/

@[simp] theorem byteOf_toNat_field (x : Byte) : byteOf x.toNat = x := BitVec.ofNat_toNat ..

@[simp] theorem unitOf_toNat_field (x : BitVec 4) : unitOf x.toNat = x := BitVec.ofNat_toNat ..

theorem unitOf_toNat {n : Nat} (h : n < 16) : (unitOf n).toNat = n := by
  simp [unitOf, Nat.mod_eq_of_lt h]

/-- A field holds a number that fits it exactly when it reads as that number. -/
theorem eq_byteOf_iff {n : Nat} {x : Byte} : n < 256 ∧ x = byteOf n ↔ x.toNat = n := by
  constructor
  · rintro ⟨h, rfl⟩
    exact byteOf_toNat h
  · rintro rfl
    exact ⟨x.isLt, (byteOf_toNat_field x).symm⟩

theorem eq_unitOf_iff {n : Nat} {x : BitVec 4} : n < 16 ∧ x = unitOf n ↔ x.toNat = n := by
  constructor
  · rintro ⟨h, rfl⟩
    exact unitOf_toNat h
  · rintro rfl
    exact ⟨x.isLt, (unitOf_toNat_field x).symm⟩

/-- RINIT's field `c` holds the direction in bit 0 and nothing above it (rules R29, R73). -/
theorem eq_directionField_iff {dir : Direction} {x : Byte} :
    x = 0#7 ++ BitVec.ofBool dir.toBit ↔
      x.extractLsb' 1 7 = 0 ∧ Direction.ofBit (x.getLsbD 0) = dir := by
  cases dir <;> revert x <;> decide

theorem directionField_spec (dir : Direction) :
    (0#7 ++ BitVec.ofBool dir.toBit).extractLsb' 1 7 = 0 ∧
      Direction.ofBit ((0#7 ++ BitVec.ofBool dir.toBit).getLsbD 0) = dir := eq_directionField_iff.1 rfl

theorem wellFormed_seti_iff {p r g b : Nat} :
    (Instr.seti p r g b).WellFormed ↔ p < 256 ∧ r < 256 ∧ g < 256 ∧ b < 256 := by
  simp [Instr.WellFormed, Instr.wellFormed, and_assoc]

theorem wellFormed_rinit_iff {u bound value : Nat} {dir : Direction} :
    (Instr.rinit u bound value dir).WellFormed ↔ u < 16 ∧ bound < 256 ∧ value < 256 := by
  simp [Instr.WellFormed, Instr.wellFormed, and_assoc]

theorem wellFormed_rstep_iff {u sz : Nat} : (Instr.rstep u sz).WellFormed ↔ u < 16 ∧ sz < 256 := by
  simp [Instr.WellFormed, Instr.wellFormed]

theorem wellFormed_rup_iff {u sz : Nat} : (Instr.rup u sz).WellFormed ↔ u < 16 ∧ sz < 256 := by
  simp [Instr.WellFormed, Instr.wellFormed]

/-! ## The two round trips -/

/-- Settles O1: format C reads back field by field, and an operand that fits its field is its field. -/
theorem decodeEncodeAgree : Obligations.DecodeEncodeAgree := by
  intro i hi
  cases i with
  | nop | pwmstep => rfl
  | seti p r g b =>
    obtain ⟨hp, hr, hg, hb⟩ := wellFormed_seti_iff.1 hi
    simp [encode, decode, decodeCommand, byteOf_toNat hp, byteOf_toNat hr, byteOf_toNat hg,
      byteOf_toNat hb]
  | rinit u bound value dir =>
    obtain ⟨hu, hbound, hvalue⟩ := wellFormed_rinit_iff.1 hi
    obtain ⟨hzero, hdir⟩ := directionField_spec dir
    simp only [encode, decode, decodeCommand, opField_formatC, unitField_formatC, aField_formatC,
      bField_formatC, cField_formatC, dField_formatC, hzero, hdir, unitOf_toNat hu,
      byteOf_toNat hbound, byteOf_toNat hvalue]
    rfl
  | rstep u sz =>
    obtain ⟨hu, hsz⟩ := wellFormed_rstep_iff.1 hi
    simp [encode, decode, decodeCommand, unitOf_toNat hu, byteOf_toNat hsz]
  | rup u sz =>
    obtain ⟨hu, hsz⟩ := wellFormed_rup_iff.1 hi
    simp [encode, decode, decodeCommand, unitOf_toNat hu, byteOf_toNat hsz]

/-- What the decoder reads from a command word encodes to that word: the fields it does not hand to the
instruction are the zeros the encoder writes. -/
theorem encode_of_decodeCommand {w : CmdWord} {i : Instr} (h : decodeCommand w = .op i) :
    encode i = .command w := by
  unfold decodeCommand at h
  split at h
  case h_6 => cases h
  all_goals
    rename_i hop
    have hop := congrArg (BitVec.ofNat 4) hop
    rw [BitVec.ofNat_toNat, BitVec.setWidth_eq] at hop
    split at h <;> cases h
    rename_i hzero
    refine congrArg OpWord.command (formatC_eq_iff.2 ?_)
  case h_1 =>
    obtain ⟨hu, ha, hb, hc, hd⟩ := (low36_eq_zero_iff w).1 hzero
    simp [hop, hu, ha, hb, hc, hd]
  case h_2 => simp [hop, hzero]
  case h_3 =>
    obtain ⟨hc, hd⟩ := hzero
    simpa [hop, hd] using eq_directionField_iff.2 ⟨hc, rfl⟩
  case h_4 | h_5 => simp [hop, hzero]

/-- Settles O2: a command word is the encoding of what it decodes to, and the tick pin carries PWMSTEP
alone. -/
theorem encodeDecodeAgree : Obligations.EncodeDecodeAgree := by
  intro w i h
  refine ⟨wellFormed_of_decode h, ?_⟩
  cases w with
  | command w => exact encode_of_decodeCommand h
  | tick level => cases level <;> cases h; rfl

/-- A well-formed instruction has one carrier, its encoding, and an ill-formed one has none. -/
theorem decode_eq_op_iff {w : OpWord} {i : Instr} :
    decode w = .op i ↔ i.WellFormed ∧ encode i = w := by
  constructor
  · exact encodeDecodeAgree w i
  · rintro ⟨hi, rfl⟩
    exact decodeEncodeAgree i hi

/-! ## The rows of the opcode map, field by field (rule R73) -/

section Rows

variable {w : CmdWord}

theorem decode_nop_iff : decode (.command w) = .op .nop ↔
    opField w = 0x0 ∧ unitField w = 0 ∧ aField w = 0 ∧ bField w = 0 ∧ cField w = 0 ∧ dField w = 0 := by
  rw [decode_eq_op_iff, encode, OpWord.command.injEq, formatC_eq_iff]
  exact and_iff_right rfl

theorem decode_seti_iff {p r g b : Nat} : decode (.command w) = .op (.seti p r g b) ↔
    opField w = 0x1 ∧ unitField w = 0 ∧ (aField w).toNat = p ∧ (bField w).toNat = r ∧
      (cField w).toNat = g ∧ (dField w).toNat = b := by
  rw [decode_eq_op_iff, encode, OpWord.command.injEq, formatC_eq_iff, wellFormed_seti_iff]
  simp only [← eq_byteOf_iff]
  tauto

theorem decode_rinit_iff {u bound value : Nat} {dir : Direction} :
    decode (.command w) = .op (.rinit u bound value dir) ↔
      opField w = 0x8 ∧ (unitField w).toNat = u ∧ (aField w).toNat = bound ∧
        (bField w).toNat = value ∧ ((cField w).extractLsb' 1 7 = 0 ∧
        Direction.ofBit ((cField w).getLsbD 0) = dir) ∧ dField w = 0 := by
  rw [decode_eq_op_iff, encode, OpWord.command.injEq, formatC_eq_iff, wellFormed_rinit_iff]
  simp only [← eq_byteOf_iff, ← eq_unitOf_iff, ← eq_directionField_iff]
  tauto

theorem decode_rstep_iff {u sz : Nat} : decode (.command w) = .op (.rstep u sz) ↔
    opField w = 0x9 ∧ (unitField w).toNat = u ∧ (aField w).toNat = sz ∧
      bField w = 0 ∧ cField w = 0 ∧ dField w = 0 := by
  rw [decode_eq_op_iff, encode, OpWord.command.injEq, formatC_eq_iff, wellFormed_rstep_iff]
  simp only [← eq_byteOf_iff, ← eq_unitOf_iff]
  tauto

theorem decode_rup_iff {u sz : Nat} : decode (.command w) = .op (.rup u sz) ↔
    opField w = 0xA ∧ (unitField w).toNat = u ∧ (aField w).toNat = sz ∧
      bField w = 0 ∧ cField w = 0 ∧ dField w = 0 := by
  rw [decode_eq_op_iff, encode, OpWord.command.injEq, formatC_eq_iff, wellFormed_rup_iff]
  simp only [← eq_byteOf_iff, ← eq_unitOf_iff]
  tauto

/-- The word fits a row of rule R73: its `op` is assigned and the fields its row does not use are zero. -/
def FitsARow (w : CmdWord) : Prop :=
  (opField w = 0x0 ∧ w.extractLsb' 0 36 = 0) ∨
  (opField w = 0x1 ∧ unitField w = 0) ∨
  (opField w = 0x8 ∧ (cField w).extractLsb' 1 7 = 0 ∧ dField w = 0) ∨
  (opField w = 0x9 ∧ w.extractLsb' 0 24 = 0) ∨
  (opField w = 0xA ∧ w.extractLsb' 0 24 = 0)

/-- The decoder accepts exactly the words that fit a row. -/
theorem decodes_iff_fitsARow : (∃ i, decode (.command w) = .op i) ↔ FitsARow w := by
  simp only [FitsARow, low36_eq_zero_iff, low24_eq_zero_iff]
  constructor
  · rintro ⟨i, h⟩
    cases i with
    | nop => exact .inl (decode_nop_iff.1 h)
    | seti p r g b =>
      obtain ⟨hop, hu, -⟩ := decode_seti_iff.1 h
      exact .inr (.inl ⟨hop, hu⟩)
    | rinit u bound value dir =>
      obtain ⟨hop, -, -, -, ⟨hc, -⟩, hd⟩ := decode_rinit_iff.1 h
      exact .inr (.inr (.inl ⟨hop, hc, hd⟩))
    | rstep u sz =>
      obtain ⟨hop, -, -, hzero⟩ := decode_rstep_iff.1 h
      exact .inr (.inr (.inr (.inl ⟨hop, hzero⟩)))
    | rup u sz =>
      obtain ⟨hop, -, -, hzero⟩ := decode_rup_iff.1 h
      exact .inr (.inr (.inr (.inr ⟨hop, hzero⟩)))
    | pwmstep => exact absurd h (decode_command_ne_pwmstep w)
  · rintro (h | ⟨hop, hu⟩ | ⟨hop, hc, hd⟩ | ⟨hop, hzero⟩ | ⟨hop, hzero⟩)
    · exact ⟨_, decode_nop_iff.2 h⟩
    · exact ⟨_, decode_seti_iff.2 ⟨hop, hu, rfl, rfl, rfl, rfl⟩⟩
    · exact ⟨_, decode_rinit_iff.2 ⟨hop, rfl, rfl, rfl, ⟨hc, rfl⟩, hd⟩⟩
    · exact ⟨_, decode_rstep_iff.2 ⟨hop, rfl, rfl, hzero⟩⟩
    · exact ⟨_, decode_rup_iff.2 ⟨hop, rfl, rfl, hzero⟩⟩

theorem rejected_iff_not_fitsARow : (∃ why, decode (.command w) = .rejected why) ↔ ¬ FitsARow w := by
  rw [← decodes_iff_fitsARow]
  cases decode (.command w) <;> simp

/-! ## The same rows by mask and match -/

theorem and_byteMask (x : Byte) : x &&& 0xFF#8 = x := BitVec.and_allOnes

theorem and_nibbleMask (x : BitVec 4) : x &&& 0xF#4 = x := BitVec.and_allOnes

/-- RINIT's mask looks at bits 7 to 1 of field `c`. -/
theorem and_directionMask_eq_zero_iff {x : Byte} : x &&& 0xFE#8 = 0#8 ↔ x.extractLsb' 1 7 = 0#7 := by
  revert x; decide

theorem nop_matches_iff : w &&& 0xFFFFFFFFFF#40 = 0x0000000000#40 ↔
    opField w = 0x0 ∧ unitField w = 0 ∧ aField w = 0 ∧ bField w = 0 ∧ cField w = 0 ∧ dField w = 0 := by
  refine (and_formatC_eq_iff (op := 0xF) (u := 0xF) (a := 0xFF) (b := 0xFF) (c := 0xFF) (d := 0xFF)
    (op' := 0) (u' := 0) (a' := 0) (b' := 0) (c' := 0) (d' := 0)).trans ?_
  simp [and_nibbleMask, and_byteMask]

theorem seti_matches_iff : w &&& 0xFF00000000#40 = 0x1000000000#40 ↔
    opField w = 0x1 ∧ unitField w = 0 := by
  refine (and_formatC_eq_iff (op := 0xF) (u := 0xF) (a := 0) (b := 0) (c := 0) (d := 0)
    (op' := 1) (u' := 0) (a' := 0) (b' := 0) (c' := 0) (d' := 0)).trans ?_
  simp [and_nibbleMask]

theorem rinit_matches_iff : w &&& 0xF00000FEFF#40 = 0x8000000000#40 ↔
    opField w = 0x8 ∧ (cField w).extractLsb' 1 7 = 0 ∧ dField w = 0 := by
  refine (and_formatC_eq_iff (op := 0xF) (u := 0) (a := 0) (b := 0) (c := 0xFE) (d := 0xFF)
    (op' := 8) (u' := 0) (a' := 0) (b' := 0) (c' := 0) (d' := 0)).trans ?_
  simp [and_nibbleMask, and_byteMask, and_directionMask_eq_zero_iff]

/-- The rows of RSTEP and RUP differ in `op` alone. -/
theorem ramp_matches_iff {op : BitVec 4} : w &&& 0xF000FFFFFF#40 = formatC op 0 0 0 0 0 ↔
    opField w = op ∧ bField w = 0 ∧ cField w = 0 ∧ dField w = 0 := by
  refine (and_formatC_eq_iff (op := 0xF) (u := 0) (a := 0) (b := 0xFF) (c := 0xFF) (d := 0xFF)).trans ?_
  simp [and_nibbleMask, and_byteMask]

end Rows

theorem directionBit_eq (w : CmdWord) : Direction.ofBit ((cField w).getLsbD 0) =
    if w.getLsbD 8 then .falling else .rising := by
  simp [Direction.ofBit, cField]

/-- Settles O3: each row's mask and match say of the fields what the decoder asks of them. -/
theorem decodeFollowsTheOpcodeMap : Obligations.DecodeFollowsTheOpcodeMap := by
  intro w
  have hrstep := ramp_matches_iff (w := w) (op := 0x9)
  have hrup := ramp_matches_iff (w := w) (op := 0xA)
  refine ⟨nop_matches_iff.trans decode_nop_iff.symm, seti_matches_iff.trans ?_,
    rinit_matches_iff.trans ?_, hrstep.trans ?_, hrup.trans ?_, ?_⟩
  · rw [decode_seti_iff]
    exact and_congr_right' ⟨fun hu => ⟨hu, rfl, rfl, rfl, rfl⟩, And.left⟩
  · rw [decode_rinit_iff]
    exact and_congr_right' ⟨fun ⟨hc, hd⟩ => ⟨rfl, rfl, rfl, ⟨hc, directionBit_eq w⟩, hd⟩,
      fun ⟨_, _, _, ⟨hc, _⟩, hd⟩ => ⟨hc, hd⟩⟩
  · rw [decode_rstep_iff]
    exact and_congr_right' ⟨fun hzero => ⟨rfl, rfl, hzero⟩, fun ⟨_, _, hzero⟩ => hzero⟩
  · rw [decode_rup_iff]
    exact and_congr_right' ⟨fun hzero => ⟨rfl, rfl, hzero⟩, fun ⟨_, _, hzero⟩ => hzero⟩
  · intro hnop hseti hrinit hrstep' hrup'
    rw [rejected_iff_not_fitsARow, FitsARow, low36_eq_zero_iff, low24_eq_zero_iff]
    rintro (h | h | h | h | h)
    · exact hnop (nop_matches_iff.2 h)
    · exact hseti (seti_matches_iff.2 h)
    · exact hrinit (rinit_matches_iff.2 h)
    · exact hrstep' (hrstep.2 h)
    · exact hrup' (hrup.2 h)

/-! ## Reserved words (rule R75) -/

/-- Rule R75's reserved words are those that fit no row: every `op` is in a row or unassigned. -/
theorem reservedWord_iff_not_fitsARow (w : CmdWord) : reservedWord w ↔ ¬ FitsARow w := by
  have hc : w.extractLsb' 9 7 = (cField w).extractLsb' 1 7 := by
    ext i hi
    simp [cField, show 1 + i < 8 by omega, ← Nat.add_assoc]
  unfold FitsARow
  change ((2 ≤ (opField w).toNat ∧ (opField w).toNat ≤ 7) ∨ 11 ≤ (opField w).toNat ∨
    (opField w = 0 ∧ w.extractLsb' 0 36 ≠ 0) ∨ (opField w = 1 ∧ unitField w ≠ 0) ∨
    (opField w = 8 ∧ (w.extractLsb' 9 7 ≠ 0 ∨ dField w ≠ 0)) ∨
    (opField w = 9 ∧ w.extractLsb' 0 24 ≠ 0) ∨ (opField w = 10 ∧ w.extractLsb' 0 24 ≠ 0)) ↔ _
  rw [hc]
  have hlt := (opField w).isLt
  simp only [← BitVec.toNat_inj (x := opField w)]
  generalize (opField w).toNat = op at *
  grind

/-- Settles O4: the decoder rejects the words that fit no row, and so are the reserved ones. -/
theorem rejectedWordsAreTheReservedOnes : Obligations.RejectedWordsAreTheReservedOnes := fun w =>
  rejected_iff_not_fitsARow.trans (reservedWord_iff_not_fitsARow w).symm

/-! ## How many words each command has (rule R75) -/

/-- Words built from operands that read back, and all of a set, are as many as there are operands. -/
theorem ncard_eq_card_operands {α : Type} {build : α → CmdWord} {operands : CmdWord → α}
    (hread : ∀ x, operands (build x) = x) {S : Set CmdWord}
    (hS : ∀ w, w ∈ S ↔ build (operands w) = w) : S.ncard = Nat.card α := by
  have hrange : S = Set.range build := by
    ext w
    rw [hS]
    exact ⟨fun h => ⟨_, h⟩, by rintro ⟨x, rfl⟩; rw [hread]⟩
  rw [hrange, Set.ncard_range_of_injective (Function.LeftInverse.injective hread)]

theorem card_bitVec (n : Nat) : Nat.card (BitVec n) = 2 ^ n :=
  (Nat.card_congr BitVec.equivFin.toEquiv).trans (Nat.card_fin _)

theorem card_direction : Nat.card Direction = 2 := by
  have e : Direction ≃ Bool :=
    ⟨Direction.toBit, Direction.ofBit, fun dir => by cases dir <;> rfl, fun b => by cases b <;> rfl⟩
  rw [Nat.card_congr e, Nat.card_eq_fintype_card, Fintype.card_bool]

theorem nop_words_ncard : {w : CmdWord | decode (.command w) = .op .nop}.ncard = 1 := by
  refine Set.ncard_eq_one.2 ⟨formatC 0 0 0 0 0 0, Set.ext fun w => ?_⟩
  rw [Set.mem_ofPred_eq, decode_nop_iff, ← formatC_eq_iff, Set.mem_singleton_iff, eq_comm]

theorem seti_words_ncard :
    {w : CmdWord | ∃ p r g b, decode (.command w) = .op (.seti p r g b)}.ncard = 2 ^ 32 := by
  rw [ncard_eq_card_operands (α := Byte × Byte × Byte × Byte)
    (build := fun ⟨a, b, c, d⟩ => formatC 0x1 0 a b c d)
    (operands := fun w => (aField w, bField w, cField w, dField w)) (by simp)
    (by simp [decode_seti_iff, formatC_eq_iff])]
  simp only [Nat.card_prod, card_bitVec]
  norm_num

theorem rinit_words_ncard : {w : CmdWord | ∃ u bound value dir,
    decode (.command w) = .op (.rinit u bound value dir)}.ncard = 2 ^ 21 := by
  rw [ncard_eq_card_operands (α := BitVec 4 × Byte × Byte × Direction)
    (build := fun ⟨u, a, b, dir⟩ => formatC 0x8 u a b (0#7 ++ BitVec.ofBool dir.toBit) 0)
    (operands := fun w => (unitField w, aField w, bField w, Direction.ofBit ((cField w).getLsbD 0)))]
  · simp only [Nat.card_prod, card_bitVec, card_direction]
    norm_num
  · rintro ⟨u, a, b, dir⟩
    simp only [unitField_formatC, aField_formatC, bField_formatC, cField_formatC,
      (directionField_spec dir).2]
  · intro w
    simp [decode_rinit_iff, formatC_eq_iff, eq_directionField_iff]

/-- The rows of RSTEP and RUP differ in `op` alone, so they have as many words. -/
theorem ramp_words_ncard (op : BitVec 4) : {w : CmdWord | opField w = op ∧ bField w = 0 ∧
    cField w = 0 ∧ dField w = 0}.ncard = 2 ^ 12 := by
  rw [ncard_eq_card_operands (α := BitVec 4 × Byte) (build := fun ⟨u, a⟩ => formatC op u a 0 0 0)
    (operands := fun w => (unitField w, aField w)) (by simp) (by simp [formatC_eq_iff])]
  simp only [Nat.card_prod, card_bitVec]
  norm_num

/-- Settles O5: the operands of a row are the fields it leaves free, so each choice of them is one word. -/
theorem commandWordCounts : Obligations.CommandWordCounts := by
  refine ⟨nop_words_ncard, seti_words_ncard, rinit_words_ncard, ?_, ?_⟩
  · simpa [decode_rstep_iff] using ramp_words_ncard 0x9
  · simpa [decode_rup_iff] using ramp_words_ncard 0xA

/-- Settles O6: the decoder evaluated on each word. -/
theorem workedEncodingsDecode : Obligations.WorkedEncodingsDecode := by
  refine ⟨?_, ?_, ?_, ?_, ?_, ?_, ?_, ?_, ?_, ?_⟩ <;> decide

end Sys2Proof
end

section
/-! The clock edge as its pins are driven (rules R72, R80, R81): the edge of one instruction is its
meaning, a tick beside it is the PWM step first, and the lines of a listing are such edges in order. -/

namespace Sys2Proof.Machine

/-! ## One edge -/

theorem runWord_of_decode {w : OpWord} {i : Instr} (h : decode w = .op i) (s : State) :
    runWord w s = exec i s := by
  unfold runWord
  rw [h]

@[simp] theorem andThen_next_right (o : Host.Outcome State Fault Refusal) :
    andThen o .next = o := by
  cases o <;> rfl

/-- Without reset and tick, an edge is its command half. -/
theorem clockEdge_of_no_tick {e : EdgeInput} (hrst : e.rst = false) (htick : e.pwmTick = false)
    (s : State) : clockEdge e s = commandPart e s := by
  rw [clockEdge, hrst, htick]
  rfl

theorem clockEdge_quiet {e : EdgeInput} (hrst : e.rst = false) (htick : e.pwmTick = false)
    (hvalid : e.cmdValid = false) (s : State) : clockEdge e s = .next s := by
  rw [clockEdge_of_no_tick hrst htick, commandPart, hvalid]
  rfl

theorem clockEdge_command {e : EdgeInput} {i : Instr} (hrst : e.rst = false)
    (htick : e.pwmTick = false) (hvalid : e.cmdValid = true)
    (hdecode : decode (.command e.cmd) = .op i) (s : State) : clockEdge e s = exec i s := by
  rw [clockEdge_of_no_tick hrst htick, commandPart, if_pos hvalid, runWord_of_decode hdecode]

/-- The same edge with the tick pin at 0. -/
def EdgeInput.withoutTick (e : EdgeInput) : EdgeInput := { e with pwmTick := false }

/-- A tick at an edge is the PWM step, and then the edge without it (rule R72). -/
theorem clockEdge_tick {e : EdgeInput} (hrst : e.rst = false) (htick : e.pwmTick = true) (s : State) :
    clockEdge e s = andThen (exec .pwmstep s) (clockEdge e.withoutTick) := by
  have hcommand : clockEdge e.withoutTick = commandPart e :=
    funext (clockEdge_of_no_tick (e := e.withoutTick) hrst rfl)
  rw [hcommand, clockEdge, if_neg (by simp [hrst]), htick, runWord_tick, if_pos rfl]

/-- The edge that presents a carrier runs it and nothing else. -/
theorem clockEdge_ofWord (w : OpWord) (s : State) : clockEdge (.ofWord w) s = runWord w s := by
  cases w with
  | command w => exact clockEdge_of_no_tick rfl rfl s
  | tick level => exact andThen_next_right _

/-- The edge that presents a well-formed instruction is its meaning, by the round trip of its
encoding. -/
theorem clockEdge_ofInstr {i : Instr} (hi : i.WellFormed) (s : State) :
    clockEdge (.ofInstr i) s = exec i s :=
  (clockEdge_ofWord (encode i) s).trans (runWord_of_decode (decodeEncodeAgree i hi) s)

/-! ## One step -/

/-- A step is the edge of the next input, on the state whose inputs are the later ones. -/
theorem step_of_inputs_cons {s : State} {e : EdgeInput} {rest : List EdgeInput}
    (h : s.inputs = e :: rest) : step s = clockEdge e { s with inputs := rest } := by
  unfold step State.nextInput State.dropInput
  rw [h]
  rfl

/-- Settles O7: the three ways to drive the pins, each an equation of the edge. -/
theorem stepRunsTheDecodedInstruction : Obligations.StepRunsTheDecodedInstruction := by
  intro s e rest hinputs hrst
  rw [step_of_inputs_cons hinputs]
  refine ⟨fun htick hvalid i hdecode => clockEdge_command hrst htick hvalid hdecode _,
    fun htick hvalid => ?_, fun htick hvalid i hdecode => ?_⟩
  · rw [clockEdge_tick hrst htick, funext (clockEdge_quiet (e := e.withoutTick) hrst rfl hvalid),
      andThen_next_right]
  · rw [clockEdge_tick hrst htick,
      funext (clockEdge_command (e := e.withoutTick) hrst rfl hvalid hdecode)]

/-- Settles O8: the next step takes the presented edge, which is the instruction's meaning. -/
theorem presentedInstructionRuns : Obligations.PresentedInstructionRuns := fun _ _ hi =>
  clockEdge_ofInstr hi _

/-- Settles O11: with no tick and no valid command both halves of the edge are empty. -/
theorem quietEdgeChangesNothing : Obligations.QuietEdgeChangesNothing := fun _ s =>
  clockEdge_quiet rfl rfl rfl s

/-- Settles O12: the input taken where none is given is the idle edge, and no input is taken away. -/
theorem noInputIsAnIdleEdge : Obligations.NoInputIsAnIdleEdge := by
  intro s h
  have hnext : s.nextInput = .idle := by rw [State.nextInput, h]; rfl
  have hdrop : s.dropInput = s := by
    unfold State.dropInput
    rw [h, List.tail_nil, ← h]
  rw [step, hnext, hdrop]
  exact clockEdge_quiet rfl rfl rfl s

/-! ## Lines of a listing (rules R80, R81) -/

@[simp] theorem runEdges_singleton (e : EdgeInput) (s : State) : runEdges [e] s = clockEdge e s :=
  andThen_next_right _

/-- Edges that each present a well-formed instruction run the instructions in order. -/
theorem runEdges_map_ofInstr {is : List Instr} (his : ∀ i ∈ is, i.WellFormed) (s : State) :
    runEdges (is.map .ofInstr) s = execAll is s := by
  induction is generalizing s with
  | nil => rfl
  | cons i is ih =>
    obtain ⟨hi, his⟩ := List.forall_mem_cons.1 his
    rw [List.map_cons, runEdges, execAll, clockEdge_ofInstr hi, funext (ih his)]

theorem runEdges_idles (n : Nat) (s : State) :
    runEdges (List.replicate n .idle) s = .next s := by
  induction n with
  | zero => rfl
  | succ n ih =>
    rw [List.replicate_succ, runEdges, clockEdge_quiet rfl rfl rfl, andThen_next, ih]

/-- A command leaves the tick pin of its edge at 0 (rule R78). -/
theorem ofInstr_pins {i : Instr} (hi : i.isCommand = true) :
    (EdgeInput.ofInstr i).rst = false ∧ (EdgeInput.ofInstr i).pwmTick = false := by
  cases i with
  | pwmstep => cases hi
  | nop | seti | rinit | rstep | rup => exact ⟨rfl, rfl⟩

/-- A tick on the edge of a command is the PWM step and then the command. -/
theorem clockEdge_ofInstr_withTick {i : Instr} (hcommand : i.isCommand = true) (hi : i.WellFormed)
    (s : State) :
    clockEdge (EdgeInput.ofInstr i).withTick s = andThen (exec .pwmstep s) (exec i) := by
  obtain ⟨hrst, htick⟩ := ofInstr_pins hcommand
  have hwithout : (EdgeInput.ofInstr i).withTick.withoutTick = EdgeInput.ofInstr i := by
    rw [EdgeInput.withoutTick, ← htick]
    rfl
  rw [clockEdge_tick (e := (EdgeInput.ofInstr i).withTick) hrst rfl, hwithout, funext (clockEdge_ofInstr hi)]

/-- Settles O17: each line's edges present the instructions it stands for. -/
theorem listingLinesRunAsWritten : Obligations.ListingLinesRunAsWritten := by
  intro s
  refine ⟨fun i hi => ?_, fun n => ⟨?_, runEdges_idles n s⟩, fun u bound hrset => ?_⟩
  · obtain ⟨hcommand, hwf⟩ := Bool.and_eq_true_iff.1 hi
    exact ⟨(runEdges_singleton _ s).trans (clockEdge_ofInstr hwf s),
      (runEdges_singleton _ s).trans (clockEdge_ofInstr_withTick hcommand hwf s)⟩
  · have hticks := runEdges_map_ofInstr (is := List.replicate n .pwmstep)
      (fun i hi => by rw [List.eq_of_mem_replicate hi]; rfl) s
    rwa [List.map_replicate] at hticks
  · obtain ⟨hu, hbound⟩ := Bool.and_eq_true_iff.1 hrset
    have hwf : (Instr.rinit u bound 0 .rising).WellFormed :=
      wellFormed_rinit_iff.2 ⟨of_decide_eq_true hu, of_decide_eq_true hbound, by decide⟩
    exact (runEdges_singleton _ s).trans (clockEdge_ofInstr hwf s)

/-! ## SETC (rules R81, R132) -/

/-- SETI stores in each channel by that channel's operand, and touches nothing but its pixel's lengths. -/
theorem onlyLengthsOfPixelChanged_setPixel {s : State} {p : Nat} (hp : p < s.pixelCount)
    (d : Rgb Byte) : OnlyLengthsOfPixelChanged p s (s.setPixel p { s.pixel p with duty := d }) := by
  refine ⟨rfl, rfl, rfl, rfl, setPixel_pixelCount .., fun q c => ?_, fun q c hq =>
    duty_setPixel_ne hq _ c⟩
  rcases eq_or_ne q p with rfl | hq
  · exact out_setPixel_same hp _ c
  · exact out_setPixel_ne hq _ c

/-- The operand SETC gives channel `c'` in the SETI it stands for. -/
def setcOperand (c : Channel) (v : Nat) (c' : Channel) : Nat := if c' = c then v else outOfRangeOperand

theorem setcInstr_eq (p : Nat) (c : Channel) (v : Nat) : setcInstr p c v =
    .seti p (setcOperand c v .red) (setcOperand c v .green) (setcOperand c v .blue) := by
  cases c <;> rfl

theorem wellFormed_setcInstr {p v : Nat} (hp : p < 256) (hv : v < 256) (c : Channel) :
    (setcInstr p c v).WellFormed := by
  have hoperand (c' : Channel) : setcOperand c v c' < 256 := by
    unfold setcOperand
    split
    · exact hv
    · decide
  rw [setcInstr_eq, wellFormed_seti_iff]
  exact ⟨hp, hoperand .red, hoperand .green, hoperand .blue⟩

/-- SETI treats the three channels alike, each by its own operand. -/
theorem lengthsAfter_get (s : State) (operand : Channel → Nat) (old : Rgb Byte) (c : Channel) :
    (s.lengthsAfter (operand .red) (operand .green) (operand .blue) old).get c =
      s.channelAfter (operand c) (old.get c) := by
  cases c <;> rfl

/-- The operand 255 keeps its channel wherever the assembler accepts SETC. -/
theorem channelAfter_outOfRange {s : State} (h : s.maxIntensity < 255) (old : Byte) :
    s.channelAfter outOfRangeOperand old = old := by
  obtain ⟨hle, -⟩ | ⟨-, hkeep⟩ := channelAfter_cases s outOfRangeOperand old
  · exact absurd hle (Nat.not_le.2 h)
  · exact hkeep

/-- Settles O33: SETC is a SETI whose other two operands are out of range. -/
theorem setcWritesOneChannel : Obligations.SetcWritesOneChannel := by
  intro p v c s hline hpixel
  simp only [Line.wellFormed, Bool.and_eq_true, decide_eq_true_eq] at hline
  obtain ⟨⟨hp, hv⟩, hmax⟩ := hline
  have hrun : runEdges (lineEdges (.setc p c v)) s = exec (setcInstr p c v) s :=
    (runEdges_singleton _ s).trans (clockEdge_ofInstr (wellFormed_setcInstr hp hv c) s)
  rw [hrun, setcInstr_eq, exec_seti_present hpixel]
  refine ⟨_, rfl, ?_, fun c' hc' => ?_, onlyLengthsOfPixelChanged_setPixel hpixel _⟩
  · rw [duty_setPixel_same hpixel, State.pixelAfterSeti, lengthsAfter_get, setcOperand, if_pos rfl]
    simp [State.channelAfter, State.inRange, State.duty]
  · rw [duty_setPixel_same hpixel, State.pixelAfterSeti, lengthsAfter_get, setcOperand, if_neg hc',
      channelAfter_outOfRange hmax, State.duty]

/-! ## A tick and a command at one edge (rules R62, R72) -/

/-- A pixel after an operation, from that pixel before it; past the bank nothing is there to change. -/
theorem pixel_after (s : State) (i : Instr) (q : Nat) : (s.after i).pixel q =
    if q < s.pixelCount then s.pixelAfter i q (s.pixel q) else Pixel.zero := by
  unfold State.pixel State.pixelCount
  split
  · simp [‹q < s.pixels.length›]
  · simp [Nat.le_of_not_lt ‹¬q < s.pixels.length›]

/-- Two states a command cannot tell apart: they differ in outputs, counter and inputs at most. -/
def SameForCommands (s₁ s₂ : State) : Prop :=
  s₁.params = s₂.params ∧ (∀ p, (s₁.pixel p).duty = (s₂.pixel p).duty) ∧ s₁.units = s₂.units

/-- The lengths an operation leaves in a pixel come from that pixel's lengths and the table. -/
theorem pixelAfter_duty_congr {s₁ s₂ : State} (hlut : s₁.lut = s₂.lut) (i : Instr) (q : Nat)
    {x₁ x₂ : Pixel} (hx : x₁.duty = x₂.duty) :
    (s₁.pixelAfter i q x₁).duty = (s₂.pixelAfter i q x₂).duty := by
  cases i with
  | seti p r g b =>
    have hchannel : s₁.channelAfter = s₂.channelAfter := by
      cases s₁; cases s₂; cases hlut; rfl
    simp only [State.pixelAfter, onlyAt]
    split
    · simp only [State.pixelAfterSeti, State.lengthsAfter, hchannel, hx]
    · exact hx
  | nop | rinit | rstep | rup | pwmstep => exact hx

theorem sameForCommands_after {s₁ s₂ : State} (h : SameForCommands s₁ s₂) (i : Instr) :
    SameForCommands (s₁.after i) (s₂.after i) := by
  obtain ⟨hparams, hduty, hunits⟩ := h
  refine ⟨by simpa using hparams, fun q => ?_, sameUnits_after hunits i⟩
  have hcount : s₁.pixelCount = s₂.pixelCount := congrArg Params.pixelCount hparams
  rw [pixel_after, pixel_after, hcount]
  split
  · exact pixelAfter_duty_congr (congrArg Params.lut hparams) i q (hduty q)
  · rfl

theorem sameForCommands_resetBlock {s₁ s₂ : State} (h : SameForCommands s₁ s₂) :
    SameForCommands s₁.resetBlock s₂.resetBlock := by
  obtain ⟨hparams, -, hunits⟩ := h
  exact ⟨by simpa using hparams, by simp, sameUnits_resetBlock hunits⟩

/-- A PWM step writes outputs and counter only (rule R140). -/
theorem sameForCommands_pwmstep (s : State) : SameForCommands (s.after .pwmstep) s :=
  ⟨after_params s .pwmstep,
    fun p => getD_mapIdx_keeps Pixel.duty (pixelAfter_duty (i := .pwmstep) nofun s) s.pixels p _,
    mapIdx_of_keeps (f := unitAfter .pwmstep) (fun _ _ => rfl) s.units⟩

theorem exec_pwmstep (s : State) : exec .pwmstep s = .next (s.after .pwmstep) :=
  congrArg Host.Outcome.next (after_pwmstep s).symm

/-- Whether an edge completes depends on the ramp units alone. -/
theorem clockEdge_completes_congr {e : EdgeInput} {s t s' : State} (hunits : t.units = s.units)
    (h : clockEdge e s = .next s') : ∃ t', clockEdge e t = .next t' := by
  obtain ⟨-, hrefused⟩ := clockEdge_completesExactlyWhen e s
  obtain ⟨hcompletes, -⟩ := clockEdge_completesExactlyWhen e t
  rw [edgeKeepsDuty_congr hunits] at hcompletes
  cases hkept : edgeKeepsDuty e s with
  | true => exact hcompletes hkept
  | false => cases h.symm.trans (hrefused hkept)

/-- Without reset and tick, an edge leaves the outputs and the counter (rule R37). -/
theorem clockEdge_keeps_out_and_cnt {e : EdgeInput} (hrst : e.rst = false) (htick : e.pwmTick = false)
    {s t : State} (h : clockEdge e s = .next t) : t.cnt = s.cnt ∧ ∀ p c, t.out p c = s.out p c := by
  obtain ⟨hreset, -⟩ | ⟨-, rfl⟩ := clockEdge_next h
  · simp [hrst] at hreset
  · refine afterAll_preserves (P := fun x => x.cnt = s.cnt ∧ ∀ p c, x.out p c = s.out p c)
      (fun x i hi hx => ?_) ⟨rfl, fun _ _ => rfl⟩
    have hpwmstep : i ≠ .pwmstep := fun hi' => pwmstep_not_mem_instrs htick (hi' ▸ hi)
    obtain ⟨hcnt, hout⟩ := hx
    exact ⟨(countAfter_eq hpwmstep x).trans hcnt, fun p c => (after_out hpwmstep x p c).trans (hout p c)⟩

/-- Settles O13: the command runs on the state the PWM step leaves, which it cannot tell from the one
before, and it leaves what the PWM step wrote. -/
theorem sharedEdgeLetsBothReadTheOldState : Obligations.SharedEdgeLetsBothReadTheOldState := by
  intro e s s₂ hrst htick _ hcommand
  have hsame := sameForCommands_pwmstep s
  have ⟨_, _, hunits₁⟩ := hsame
  obtain ⟨t, ht⟩ := clockEdge_completes_congr hunits₁ hcommand
  have hedge : clockEdge e s = .next t := by
    rw [clockEdge_tick hrst htick, exec_pwmstep, andThen_next]
    exact ht
  obtain ⟨-, hduty, hunits⟩ := clockEdge_preserves_rel (R := SameForCommands)
    (fun _ _ => sameForCommands_resetBlock) (fun i _ _ h => sameForCommands_after h i) ht hcommand hsame
  obtain ⟨hcnt, hout⟩ := clockEdge_keeps_out_and_cnt (e := e.withoutTick) hrst rfl ht
  exact ⟨_, t, exec_pwmstep s, hedge, hcnt,
    fun p c => ⟨hout p c, congrArg (Rgb.get · c) (hduty p)⟩, hunits, clockEdge_params hedge⟩

end Sys2Proof.Machine
end

section
/-! The ramp operations on the state (rules R101 to R103, R110, R116): an operation on a unit that exists
replaces that unit's registers by a function of themselves, once or over and over, and nothing else. -/

namespace Sys2Proof.Machine

/-! ## Where a ramp operation completes -/

theorem exec_of_keepsDuty {i : Instr} {s : State} (h : instrKeepsDuty i s = true) :
    exec i s = .next (s.after i) := by
  obtain ⟨hcompletes, -⟩ := exec_completesExactlyWhen i s
  obtain ⟨t, ht⟩ := hcompletes h
  rw [ht, exec_next ht]

theorem exec_of_breaksDuty {i : Instr} {s : State} (h : instrKeepsDuty i s = false) :
    exec i s = .refused .stepSizeAboveBound := by
  obtain ⟨-, hrefused⟩ := exec_completesExactlyWhen i s
  exact hrefused h

theorem hasUnit_eq_false {s : State} {u : Nat} (h : s.rampUnits ≤ u) : s.hasUnit u = false :=
  decide_eq_false (Nat.not_lt.2 h)

theorem hasUnit_eq_true {s : State} {u : Nat} (h : u < s.rampUnits) : s.hasUnit u = true :=
  decide_eq_true h

theorem stepSizeOk_eq_true {s : State} {u sz : Nat} (h : sz ≤ (s.rb u).toNat + 1) :
    s.stepSizeOk u sz = true := decide_eq_true h

theorem stepSizeOk_eq_false {s : State} {u sz : Nat} (h : (s.rb u).toNat + 1 < sz) :
    s.stepSizeOk u sz = false := decide_eq_false (Nat.not_le.2 h)

/-! ## A unit that does not exist (rule R101) -/

theorem exec_rinit_absent {s : State} {u : Nat} (h : s.rampUnits ≤ u) (bound value : Nat)
    (dir : Direction) : exec (.rinit u bound value dir) s = .next s := by
  rw [exec_of_keepsDuty rfl, after_rinit, setRampUnit_absent (hasUnit_eq_false h)]

theorem exec_rstep_absent {s : State} {u : Nat} (h : s.rampUnits ≤ u) (sz : Nat) :
    exec (.rstep u sz) s = .next s := by
  have habsent := hasUnit_eq_false h
  rw [exec_of_keepsDuty (by simp [instrKeepsDuty, habsent]), after_rstep, setRampUnit_absent habsent]

theorem exec_rup_absent {s : State} {u : Nat} (h : s.rampUnits ≤ u) (sz : Nat) :
    exec (.rup u sz) s = .next s := by
  have habsent := hasUnit_eq_false h
  rw [exec_of_keepsDuty (by simp [instrKeepsDuty, habsent]), after_rup, setRampUnit_absent habsent]

/-- Settles O19: each of the three would change its unit alone, and there is none to change. -/
theorem absentUnitIsIgnored : Obligations.AbsentUnitIsIgnored := fun _ _ h =>
  ⟨exec_rinit_absent h, exec_rstep_absent h, exec_rup_absent h⟩

/-! ## A unit that exists -/

theorem exec_rinit_above {bound value : Nat} (h : bound < value) (u : Nat) (dir : Direction) (s : State) :
    exec (.rinit u bound value dir) s = .next s := by
  rw [exec_of_keepsDuty rfl, after_rinit, afterInit_above h, setRampUnit_self]

theorem exec_rinit_within {bound value : Nat} (h : value ≤ bound) (u : Nat) (dir : Direction) (s : State) :
    exec (.rinit u bound value dir) s = .next (s.setRampUnit u (loadedUnit bound value dir)) := by
  rw [exec_of_keepsDuty rfl, after_rinit, afterInit_within h]

theorem exec_rstep_within {s : State} {u sz : Nat} (hsz : sz ≤ (s.rb u).toNat + 1) :
    exec (.rstep u sz) s = .next (s.setRampUnit u ((s.rampUnit u).afterStep sz)) := by
  rw [exec_of_keepsDuty (by simp [instrKeepsDuty, stepSizeOk_eq_true hsz]), after_rstep]

theorem exec_rup_within {s : State} {u sz : Nat} (hsz : sz ≤ (s.rb u).toNat + 1) :
    exec (.rup u sz) s = .next (s.setRampUnit u ((s.rampUnit u).afterUp sz)) := by
  rw [exec_of_keepsDuty (by simp [instrKeepsDuty, stepSizeOk_eq_true hsz]), after_rup]

theorem exec_rstep_refused {s : State} {u sz : Nat} (hu : u < s.rampUnits)
    (hsz : (s.rb u).toNat + 1 < sz) : exec (.rstep u sz) s = .refused .stepSizeAboveBound :=
  exec_of_breaksDuty (by simp [instrKeepsDuty, hasUnit_eq_true hu, stepSizeOk_eq_false hsz])

theorem exec_rup_refused {s : State} {u sz : Nat} (hu : u < s.rampUnits)
    (hsz : (s.rb u).toNat + 1 < sz) : exec (.rup u sz) s = .refused .stepSizeAboveBound :=
  exec_of_breaksDuty (by simp [instrKeepsDuty, hasUnit_eq_true hu, stepSizeOk_eq_false hsz])

theorem onlyUnitChanged_setRampUnit (s : State) (u : Nat) (x : RampUnit) :
    OnlyUnitChanged u s (s.setRampUnit u x) :=
  ⟨rfl, rfl, rfl, rfl, setRampUnit_rampUnits s u x, fun _ hv => rampUnit_setRampUnit_ne hv x⟩

/-- The four registers of a unit that exists, read back. -/
theorem registers_setRampUnit_same {s : State} {u : Nat} (h : u < s.rampUnits) (x : RampUnit) :
    (s.setRampUnit u x).rb u = x.rb ∧ (s.setRampUnit u x).rv u = x.rv ∧
      (s.setRampUnit u x).rd u = x.rd ∧ (s.setRampUnit u x).rc u = x.rc :=
  ⟨rb_setRampUnit_same h x, rv_setRampUnit_same h x, rd_setRampUnit_same h x, rc_setRampUnit_same h x⟩

/-! ## The same operation over and over -/

@[simp] theorem setRampUnit_setRampUnit (s : State) (u : Nat) (x y : RampUnit) :
    (s.setRampUnit u x).setRampUnit u y = s.setRampUnit u y := by
  simp [State.setRampUnit]

/-- An operation that has a meaning within the step-size limit, replaces its unit by `f` of it and keeps
the bound, keeps its meaning, so `k` of them replace the unit by the `k`-th iterate. -/
theorem execAll_replicate_ramp {i : Instr} {u sz : Nat} {f : RampUnit → RampUnit}
    (hexec : ∀ s : State, sz ≤ (s.rb u).toNat + 1 →
      exec i s = .next (s.setRampUnit u (f (s.rampUnit u))))
    (hbound : ∀ x, (f x).rb = x.rb) {s : State} (hu : u < s.rampUnits)
    (hsz : sz ≤ (s.rb u).toNat + 1) (k : Nat) :
    execAll (List.replicate k i) s = .next (s.setRampUnit u (f^[k] (s.rampUnit u))) := by
  have hkeeps (k : Nat) (x : RampUnit) : (f^[k] x).rb = x.rb := by
    induction k with
    | zero => rfl
    | succ k ih => rw [Function.iterate_succ_apply', hbound, ih]
  induction k with
  | zero => exact congrArg Host.Outcome.next (setRampUnit_self s u).symm
  | succ k ih =>
    rw [execAll_replicate_succ ih, hexec _ (by rwa [rb_setRampUnit_same hu, hkeeps]),
      rampUnit_setRampUnit_same hu, setRampUnit_setRampUnit, Function.iterate_succ_apply']

theorem execAll_replicate_rstep {s : State} {u sz : Nat} (hu : u < s.rampUnits)
    (hsz : sz ≤ (s.rb u).toNat + 1) (k : Nat) : execAll (List.replicate k (.rstep u sz)) s =
      .next (s.setRampUnit u ((RampUnit.afterStep sz)^[k] (s.rampUnit u))) :=
  execAll_replicate_ramp (fun _ => exec_rstep_within) (fun _ => rfl) hu hsz k

theorem execAll_replicate_rup {s : State} {u sz : Nat} (hu : u < s.rampUnits)
    (hsz : sz ≤ (s.rb u).toNat + 1) (k : Nat) : execAll (List.replicate k (.rup u sz)) s =
      .next (s.setRampUnit u ((RampUnit.afterUp sz)^[k] (s.rampUnit u))) :=
  execAll_replicate_ramp (fun _ => exec_rup_within) (fun _ => rfl) hu hsz k

end Sys2Proof.Machine
end

section
/-! What one ramp operation does to the registers of its unit, case by case (rules R110, R116), and the
word that carries each (rule R73). -/

namespace Sys2Proof.Machine

section Registers

variable {x : RampUnit} {sz : Nat}

/-! ## RSTEP -/

theorem afterStep_rising_below (hd : x.rd = .rising) (h : x.rv.toNat + sz < x.rb.toNat) :
    x.afterStep sz = ⟨x.rb, byteOf (x.rv.toNat + sz), .rising, false⟩ := by
  obtain ⟨-, hres⟩ | ⟨hle, -⟩ := rampStepRising_cases x.rb.toNat x.rv.toNat sz
  · simp only [RampUnit.afterStep, RampUnit.stepped, rampStep, hd, hres]
  · omega

theorem afterStep_rising_reaches (hd : x.rd = .rising) (h : x.rb.toNat ≤ x.rv.toNat + sz) :
    x.afterStep sz = ⟨x.rb, x.rb, .falling, false⟩ := by
  obtain ⟨hlt, -⟩ | ⟨-, hres⟩ := rampStepRising_cases x.rb.toNat x.rv.toNat sz
  · omega
  · simp only [RampUnit.afterStep, RampUnit.stepped, rampStep, hd, hres, byteOf_toNat_field]

theorem afterStep_falling_above (hd : x.rd = .falling) (h : sz < x.rv.toNat) :
    x.afterStep sz = ⟨x.rb, byteOf (x.rv.toNat - sz), .falling, false⟩ := by
  obtain ⟨-, hres⟩ | ⟨hle, -⟩ := rampStepFalling_cases x.rv.toNat sz
  · simp only [RampUnit.afterStep, RampUnit.stepped, rampStep, hd, hres]
  · omega

theorem afterStep_falling_reaches (hd : x.rd = .falling) (h : x.rv.toNat ≤ sz) :
    x.afterStep sz = ⟨x.rb, 0, .rising, true⟩ := by
  obtain ⟨hlt, -⟩ | ⟨-, hres⟩ := rampStepFalling_cases x.rv.toNat sz
  · omega
  · simp only [RampUnit.afterStep, RampUnit.stepped, rampStep, hd, hres]
    rfl

/-- A falling step reports completion exactly when it reaches or undershoots 0 (rule R115). -/
theorem afterStep_falling_rc_iff (hd : x.rd = .falling) :
    (x.afterStep sz).rc = true ↔ x.rv.toNat ≤ sz := by
  rcases Nat.lt_or_ge sz x.rv.toNat with h | h
  · simp [afterStep_falling_above hd h, h]
  · simp [afterStep_falling_reaches hd h, h]

/-- A sum within the bound is narrowed to itself. -/
theorem byteOf_add_toNat {a b : Nat} {c : Byte} (h : a + b ≤ c.toNat) :
    (byteOf (a + b)).toNat = a + b := byteOf_toNat (by omega)

theorem byteOf_sub_toNat (c : Byte) (a : Nat) : (byteOf (c.toNat - a)).toNat = c.toNat - a :=
  byteOf_toNat (by omega)

/-! ## RUP -/

theorem afterUp_within (h : x.rv.toNat + sz ≤ x.rb.toNat) :
    x.afterUp sz = ⟨x.rb, byteOf (x.rv.toNat + sz), x.rd, false⟩ := by
  obtain ⟨-, hvalue, hwraps⟩ | ⟨hlt, -⟩ := rampUp_cases x.rb.toNat x.rv.toNat sz
  · simp only [RampUnit.afterUp, RampUnit.raised, hvalue, hwraps]
  · omega

theorem afterUp_wraps (h : x.rb.toNat < x.rv.toNat + sz) : x.afterUp sz = ⟨x.rb, 0, x.rd, true⟩ := by
  obtain ⟨hle, -⟩ | ⟨-, hvalue, hwraps⟩ := rampUp_cases x.rb.toNat x.rv.toNat sz
  · omega
  · simp only [RampUnit.afterUp, RampUnit.raised, hvalue, hwraps]
    rfl

end Registers

/-! ## The words (rule R73) -/

/-- The pattern of RINIT, its zeros and direction bit written out. -/
theorem formatC_rinit (u : BitVec 4) (a b : Byte) (dir : Direction) :
    formatC 0x8 u a b (0#7 ++ BitVec.ofBool dir.toBit) 0 =
      0x8#4 ++ u ++ a ++ b ++ 0#7 ++ BitVec.ofBool (decide (dir = .falling)) ++ 0#8 := by
  have hbit : dir.toBit = decide (dir = .falling) := by cases dir <;> rfl
  rw [hbit, formatC]
  exact congrArg (· ++ 0#8) (BitVec.append_assoc' (x₃ := BitVec.ofBool _))

/-- The pattern of RSTEP and RUP, its unused fields as one. -/
theorem formatC_ramp (op u : BitVec 4) (a : Byte) : formatC op u a 0 0 0 = op ++ u ++ a ++ 0#24 :=
  BitVec.append_assoc.trans (BitVec.append_assoc (x₂ := 0#8) (x₃ := 0#16))

end Sys2Proof.Machine
end

section
/-! One operation on its unit (rules R103, R110 to R113, R116, R117). -/

namespace Sys2Proof.Machine

/-- Settles O21: the word by its fields, and RINIT's two ways to be ignored or its load. -/
theorem rinitFollowsItsRule : Obligations.RinitFollowsItsRule := by
  intro u bound value dir s hi
  refine ⟨?_, fun hu => exec_rinit_absent hu bound value dir, fun h => exec_rinit_above h u dir s,
    fun hu h => ⟨_, exec_rinit_within h u dir s, ?_⟩⟩
  · have hword := decodeEncodeAgree _ hi
    rwa [encode, formatC_rinit] at hword
  · obtain ⟨-, hbound, hvalue⟩ := wellFormed_rinit_iff.1 hi
    simp only [registers_setRampUnit_same hu]
    exact ⟨byteOf_toNat hbound, byteOf_toNat hvalue, rfl, rfl, onlyUnitChanged_setRampUnit s u _⟩

/-- Settles O22: the word by its fields, and the four cases of a step. -/
theorem rstepFollowsItsRule : Obligations.RstepFollowsItsRule := by
  intro u sz s
  refine ⟨fun hu hsz => ?_, fun hu => exec_rstep_absent hu sz, exec_rstep_refused,
    fun hu hsz => ⟨_, exec_rstep_within hsz, ?_⟩⟩
  · have hword := decodeEncodeAgree _ (wellFormed_rstep_iff.2 ⟨hu, hsz⟩)
    rwa [encode, formatC_ramp] at hword
  simp only [registers_setRampUnit_same hu]
  refine ⟨rfl, onlyUnitChanged_setRampUnit s u _, fun hd h => ?_, fun hd h => ?_, fun hd h => ?_,
    fun hd h => ?_⟩
  · rw [afterStep_rising_below hd h]
    exact ⟨byteOf_add_toNat h.le, rfl, rfl⟩
  · rw [afterStep_rising_reaches hd h]
    exact ⟨rfl, rfl, rfl⟩
  · rw [afterStep_falling_above hd h]
    exact ⟨byteOf_sub_toNat _ sz, rfl, rfl⟩
  · rw [afterStep_falling_reaches hd h]
    exact ⟨rfl, rfl, rfl⟩

/-- Settles O28: the word by its fields, and the two cases of RUP. -/
theorem rupFollowsItsRule : Obligations.RupFollowsItsRule := by
  intro u sz s
  refine ⟨fun hu hsz => ?_, fun hu => exec_rup_absent hu sz, exec_rup_refused,
    fun hu hsz => ⟨_, exec_rup_within hsz, ?_⟩⟩
  · have hword := decodeEncodeAgree _ (wellFormed_rup_iff.2 ⟨hu, hsz⟩)
    rwa [encode, formatC_ramp] at hword
  simp only [registers_setRampUnit_same hu]
  refine ⟨rfl, rfl, onlyUnitChanged_setRampUnit s u _, fun h => ?_, fun h => ?_⟩
  · rw [afterUp_within h]
    exact ⟨byteOf_add_toNat h, rfl⟩
  · rw [afterUp_wraps h]
    exact ⟨rfl, rfl⟩

/-! ## Consequences of the four cases of a step -/

/-- Settles O23: each case of the step gives one of the four values, and none leaves the bound. -/
theorem rstepKeepsTheValueWithinTheBound : Obligations.RstepKeepsTheValueWithinTheBound := by
  intro u sz s hu hsz hle
  obtain ⟨-, -, -, hstep⟩ := rstepFollowsItsRule u sz s
  obtain ⟨t, hexec, -, -, hbelow, htop, habove, hbottom⟩ := hstep hu hsz
  refine ⟨t, hexec, ?_, fun hd => ?_, fun hd => ?_⟩
  · rw [exec_next hexec, after_rstep, rb_setRampUnit_same hu, rv_setRampUnit_same hu]
    exact afterStep_withinBound sz hle
  · rcases Nat.lt_or_ge ((s.rv u).toNat + sz) (s.rb u).toNat with h | h
    · exact .inl (hbelow hd h).1
    · exact .inr (htop hd h).1
  · rcases Nat.lt_or_ge sz (s.rv u).toNat with h | h
    · obtain ⟨hvalue, -⟩ := habove hd h
      exact .inl (by omega)
    · exact .inr (hbottom hd h).1

/-- Settles O24: a step of size 0 is at the end it moves to, or is short of it and stays. -/
theorem rstepBySizeZero : Obligations.RstepBySizeZero := by
  intro u s hu hle
  obtain ⟨-, -, -, hstep⟩ := rstepFollowsItsRule u 0 s
  obtain ⟨t, hexec, -, -, hbelow, htop, habove, hbottom⟩ := hstep hu (Nat.zero_le _)
  refine ⟨t, hexec, ?_⟩
  cases hd : s.rd u with
  | rising =>
    rcases hle.lt_or_eq with hlt | heq
    · obtain ⟨hvalue, hdir, hrc⟩ := hbelow hd hlt
      have hne : s.rv u ≠ s.rb u := fun h => hlt.ne (congrArg BitVec.toNat h)
      exact ⟨BitVec.eq_of_toNat_eq hvalue, by simp [hdir, hrc, hne]⟩
    · obtain ⟨hvalue, hdir, hrc⟩ := htop hd heq.ge
      have hsame : s.rv u = s.rb u := BitVec.eq_of_toNat_eq heq
      exact ⟨hvalue.trans hsame.symm, by simp [hdir, hrc, hsame]⟩
  | falling =>
    rcases Nat.eq_zero_or_pos (s.rv u).toNat with hzero | hpos
    · obtain ⟨hvalue, hdir, hrc⟩ := hbottom hd hzero.le
      have hsame : s.rv u = 0 := BitVec.eq_of_toNat_eq hzero
      exact ⟨hvalue.trans hsame.symm, by simp [hdir, hrc, hsame]⟩
    · obtain ⟨hvalue, hdir, hrc⟩ := habove hd hpos
      have hne : s.rv u ≠ 0 := fun h => hpos.ne' (congrArg BitVec.toNat h)
      exact ⟨BitVec.eq_of_toNat_eq hvalue, by simpa [hdir, hrc] using hne⟩

/-- Settles O25: a step of `B + 1` always reaches the end it moves to. -/
theorem rstepByBoundPlusOne : Obligations.RstepByBoundPlusOne := by
  intro u s hu hle
  obtain ⟨-, -, -, hstep⟩ := rstepFollowsItsRule u ((s.rb u).toNat + 1) s
  obtain ⟨t, hexec, -, -, -, htop, -, hbottom⟩ := hstep hu le_rfl
  exact ⟨t, hexec, fun hd => htop hd (by omega), fun hd => hbottom hd (by omega)⟩

/-- Settles O30: RUP keeps the bound and the direction and ends within the bound, from where a step moves
up to it or down. -/
theorem rstepAfterRupKeepsTheDirection : Obligations.RstepAfterRupKeepsTheDirection := by
  intro u a b s hu ha hb
  obtain ⟨-, -, -, hup⟩ := rupFollowsItsRule u a s
  obtain ⟨t, hexec, hbound, hdir, honly, -⟩ := hup hu ha
  have hu' : u < t.rampUnits := by
    obtain ⟨-, -, -, -, hunits, -⟩ := honly
    omega
  have hwithin : (t.rv u).toNat ≤ (t.rb u).toNat := by
    rw [exec_next hexec, after_rup, rb_setRampUnit_same hu, rv_setRampUnit_same hu]
    exact afterUp_withinBound a _
  obtain ⟨-, -, -, hstep⟩ := rstepFollowsItsRule u b t
  obtain ⟨t', hexec', -, -, hbelow, htop, habove, hbottom⟩ := hstep hu' (by rwa [hbound])
  rw [hdir] at hbelow htop habove hbottom
  refine ⟨t, t', hexec, hexec', hdir, fun hd => ?_, fun hd => ?_⟩
  · rcases Nat.lt_or_ge ((t.rv u).toNat + b) (t.rb u).toNat with h | h
    · obtain ⟨hvalue, -⟩ := hbelow hd h
      omega
    · obtain ⟨hvalue, -⟩ := htop hd h
      rwa [hvalue]
  · rcases Nat.lt_or_ge b (t.rv u).toNat with h | h
    · obtain ⟨hvalue, -⟩ := habove hd h
      omega
    · obtain ⟨hvalue, -⟩ := hbottom hd h
      simp [hvalue]

end Sys2Proof.Machine
end

section
/-! Many operations in a row (rules R114 to R116). Until the end it moves to is reached, steps add up: `k`
steps by `sz` are one step by `k * sz`. A ramp cycle is then one climb and one descent. -/

namespace Sys2Proof.Machine

/-! ## How many steps cover a distance -/

/-- `n` steps by `sz` are the fewest that cover the distance. -/
def FewestSteps (n sz distance : Nat) : Prop := ∀ k, n ≤ k ↔ distance ≤ k * sz

theorem fewestSteps_ceil {sz : Nat} (hsz : 1 ≤ sz) (distance : Nat) :
    FewestSteps ((distance + sz - 1) / sz) sz distance := by
  intro k
  rw [← Nat.ceilDiv_eq_add_pred_div, ceilDiv_le_iff_le_mul hsz, Nat.mul_comm]

theorem fewestSteps_floor_succ {sz : Nat} (hsz : 1 ≤ sz) (distance : Nat) :
    FewestSteps (distance / sz + 1) sz (distance + 1) := by
  intro k
  rw [Nat.succ_le_iff, Nat.succ_le_iff, Nat.div_lt_iff_lt_mul hsz]

namespace FewestSteps

variable {n sz distance k : Nat}

theorem lt_iff (hn : FewestSteps n sz distance) : k < n ↔ k * sz < distance := by
  rw [← Nat.not_le, hn k, Nat.not_le]

theorem eq_iff (hn : FewestSteps n sz distance) (hk : k ≤ n) : k = n ↔ distance ≤ k * sz := by
  rw [← hn k]
  exact ⟨Eq.ge, hk.antisymm⟩

theorem pos (hn : FewestSteps n sz distance) (hd : 1 ≤ distance) : 1 ≤ n :=
  hn.lt_iff.2 (by omega)

end FewestSteps

/-! ## Steps add up -/

/-- How far a unit's value is from the end it moves to. -/
def RampUnit.toGo (x : RampUnit) : Nat :=
  match x.rd with
  | .rising => x.rb.toNat - x.rv.toNat
  | .falling => x.rv.toNat

theorem toGo_rising {x : RampUnit} (hd : x.rd = .rising) : x.toGo = x.rb.toNat - x.rv.toNat := by
  rw [RampUnit.toGo, hd]

theorem toGo_falling {x : RampUnit} (hd : x.rd = .falling) : x.toGo = x.rv.toNat := by
  rw [RampUnit.toGo, hd]

/-- A step short of the end and then another are one step by their sum. -/
theorem afterStep_afterStep {x : RampUnit} {a : Nat} (h : a < x.toGo) (b : Nat) :
    (x.afterStep a).afterStep b = x.afterStep (a + b) := by
  cases hd : x.rd with
  | rising =>
    rw [toGo_rising hd] at h
    have hvalue : (byteOf (x.rv.toNat + a)).toNat = x.rv.toNat + a :=
      byteOf_add_toNat (c := x.rb) (by omega)
    rw [afterStep_rising_below hd (by omega)]
    rcases Nat.lt_or_ge (x.rv.toNat + (a + b)) x.rb.toNat with hb | hb
    · rw [afterStep_rising_below hd hb, afterStep_rising_below rfl (by simp only [hvalue]; omega)]
      simp only [hvalue, Nat.add_assoc]
    · rw [afterStep_rising_reaches hd hb, afterStep_rising_reaches rfl (by simp only [hvalue]; omega)]
  | falling =>
    rw [toGo_falling hd] at h
    have hvalue := byteOf_sub_toNat x.rv a
    rw [afterStep_falling_above hd h]
    rcases Nat.lt_or_ge (a + b) x.rv.toNat with hb | hb
    · rw [afterStep_falling_above hd hb, afterStep_falling_above rfl (by simp only [hvalue]; omega)]
      simp only [hvalue, Nat.sub_sub]
    · rw [afterStep_falling_reaches hd hb, afterStep_falling_reaches rfl (by simp only [hvalue]; omega)]

/-- A RUP that stays within the bound and then another are one RUP by their sum. -/
theorem afterUp_afterUp {x : RampUnit} {a : Nat} (h : x.rv.toNat + a ≤ x.rb.toNat) (b : Nat) :
    (x.afterUp a).afterUp b = x.afterUp (a + b) := by
  have hvalue := byteOf_add_toNat h
  rw [afterUp_within h]
  rcases Nat.lt_or_ge x.rb.toNat (x.rv.toNat + (a + b)) with hb | hb
  · rw [afterUp_wraps hb, afterUp_wraps (by simp only [hvalue]; omega)]
  · rw [afterUp_within hb, afterUp_within (by simp only [hvalue]; omega)]
    simp only [hvalue, Nat.add_assoc]

/-- Where operations by `a` and by `b` add up while `a` is below `limit`, so do `k` of one size. -/
theorem iterate_eq_of_add {α : Type} {f : Nat → α → α} {x : α} {limit sz n : Nat}
    (hadd : ∀ a b, a < limit → f b (f a x) = f (a + b) x) (hn : FewestSteps n sz limit) {k : Nat}
    (hk : 1 ≤ k) (hkn : k ≤ n) : (f sz)^[k] x = f (k * sz) x := by
  induction k, hk using Nat.le_induction with
  | base => rw [Nat.one_mul, Function.iterate_one]
  | succ k _ ih =>
    rw [Function.iterate_succ_apply', ih (by omega), hadd _ _ (hn.lt_iff.1 hkn), Nat.succ_mul]

theorem iterate_afterStep {x : RampUnit} {n sz k : Nat} (hn : FewestSteps n sz x.toGo) (hk : 1 ≤ k)
    (hkn : k ≤ n) : (RampUnit.afterStep sz)^[k] x = x.afterStep (k * sz) :=
  iterate_eq_of_add (f := RampUnit.afterStep) (fun _ b h => afterStep_afterStep h b) hn hk hkn

/-- Settles O27: `k` falling steps are one by `k * sz`, which reports exactly where it covers the value. -/
theorem fallingUnitCompletesAfterItsDescent : Obligations.FallingUnitCompletesAfterItsDescent := by
  intro u sz s hu hd hsz
  refine ⟨⟨_, exec_rstep_within hsz, ?_⟩, fun hpos k hk hkn =>
    ⟨_, execAll_replicate_rstep hu hsz k, ?_⟩⟩
  · rw [rc_setRampUnit_same hu]
    exact afterStep_falling_rc_iff hd
  · have hn := fewestSteps_ceil hpos (s.rv u).toNat
    have htoGo : (s.rampUnit u).toGo = (s.rv u).toNat := toGo_falling hd
    rw [rc_setRampUnit_same hu, iterate_afterStep (htoGo ▸ hn) hk hkn, hn.eq_iff hkn]
    exact afterStep_falling_rc_iff hd

/-! ## Whole periods -/

/-- A unit at value 0. -/
def RampUnit.atZero (bound : Byte) (dir : Direction) (completed : Bool) : RampUnit :=
  ⟨bound, 0, dir, completed⟩

theorem rampUnit_eq_atZero {s : State} {u : Nat} (hv : s.rv u = 0) :
    s.rampUnit u = .atZero (s.rb u) (s.rd u) (s.rc u) := by
  rw [RampUnit.atZero, ← hv]
  rfl

/-- If one period leads from value 0 back there, any number of periods does. -/
theorem iterate_periods {f : RampUnit → RampUnit} {bound : Byte} {dir : Direction} {period : Nat}
    (h : ∀ c, f^[period] (.atZero bound dir c) = .atZero bound dir true) (m : Nat) (c : Bool) :
    ∃ c', f^[period * m] (.atZero bound dir c) = .atZero bound dir c' := by
  induction m with
  | zero => exact ⟨c, rfl⟩
  | succ m ih =>
    obtain ⟨c', ih⟩ := ih
    exact ⟨true, by rw [Nat.mul_succ, Nat.add_comm, Function.iterate_add_apply, ih, h]⟩

/-! ## The ramp cycle (rule R114) -/

/-- A unit that has just turned at its bound. -/
def RampUnit.atBound (bound : Byte) : RampUnit := ⟨bound, bound, .falling, false⟩

section Cycle

variable {bound : Byte} {n sz k : Nat}

/-- The unit at step `k` of the climb. -/
theorem iterate_climb (hn : FewestSteps n sz bound.toNat) (hk : 1 ≤ k) (hkn : k ≤ n) (c : Bool) :
    (RampUnit.afterStep sz)^[k] (.atZero bound .rising c) =
      ⟨bound, byteOf (min (k * sz) bound.toNat), if k < n then .rising else .falling, false⟩ := by
  rw [iterate_afterStep hn hk hkn]
  rcases hkn.lt_or_eq with hlt | heq
  · have hbelow := hn.lt_iff.1 hlt
    rw [afterStep_rising_below rfl (by simpa [RampUnit.atZero] using hbelow), if_pos hlt,
      min_eq_left hbelow.le]
    simp [RampUnit.atZero]
  · have hreaches := (hn k).1 heq.ge
    rw [afterStep_rising_reaches rfl (by simpa [RampUnit.atZero] using hreaches), if_neg heq.not_lt,
      min_eq_right hreaches, byteOf_toNat_field]
    rfl

/-- The unit at step `k` of the descent. -/
theorem iterate_descent (hn : FewestSteps n sz bound.toNat) (hk : 1 ≤ k) (hkn : k ≤ n) :
    (RampUnit.afterStep sz)^[k] (.atBound bound) =
      ⟨bound, byteOf (bound.toNat - k * sz), if k = n then .rising else .falling, decide (k = n)⟩ := by
  rw [iterate_afterStep hn hk hkn]
  rcases hkn.lt_or_eq with hlt | heq
  · rw [afterStep_falling_above rfl (hn.lt_iff.1 hlt), if_neg hlt.ne, decide_eq_false hlt.ne]
    rfl
  · have hreaches := (hn k).1 heq.ge
    rw [afterStep_falling_reaches rfl hreaches, if_pos heq, decide_eq_true heq,
      Nat.sub_eq_zero_of_le hreaches]
    rfl

theorem iterate_whole_climb (hn : FewestSteps n sz bound.toNat) (hbound : 1 ≤ bound.toNat) (c : Bool) :
    (RampUnit.afterStep sz)^[n] (.atZero bound .rising c) = .atBound bound := by
  rw [iterate_climb hn (hn.pos hbound) le_rfl, if_neg n.lt_irrefl, min_eq_right ((hn n).1 le_rfl),
    byteOf_toNat_field, RampUnit.atBound]

theorem iterate_whole_descent (hn : FewestSteps n sz bound.toNat) (hbound : 1 ≤ bound.toNat) :
    (RampUnit.afterStep sz)^[n] (.atBound bound) = .atZero bound .rising true := by
  rw [iterate_descent hn (hn.pos hbound) le_rfl, if_pos rfl, decide_eq_true rfl,
    Nat.sub_eq_zero_of_le ((hn n).1 le_rfl)]
  rfl

/-- The unit at step `k` of any cycle: in the climb, or in the descent after it. -/
theorem iterate_cycle (hn : FewestSteps n sz bound.toNat) (hbound : 1 ≤ bound.toNat) (c : Bool) (m : Nat)
    (hk : 1 ≤ k) (hkn : k ≤ 2 * n) :
    (RampUnit.afterStep sz)^[2 * n * m + k] (.atZero bound .rising c) =
      ⟨bound, byteOf (if k ≤ n then min (k * sz) bound.toNat else bound.toNat - (k - n) * sz),
        if k < n ∨ k = 2 * n then .rising else .falling, decide (k = 2 * n)⟩ := by
  have hperiod (c : Bool) : (RampUnit.afterStep sz)^[2 * n] (.atZero bound .rising c) =
      .atZero bound .rising true := by
    rw [Nat.two_mul, Function.iterate_add_apply, iterate_whole_climb hn hbound,
      iterate_whole_descent hn hbound]
  obtain ⟨c', hcycles⟩ := iterate_periods hperiod m c
  rw [Nat.add_comm, Function.iterate_add_apply, hcycles]
  rcases Nat.lt_or_ge n k with hdescent | hclimb
  · obtain ⟨j, rfl⟩ := Nat.exists_eq_add_of_le' hdescent.le
    have hend : j + n = 2 * n ↔ j = n := by omega
    rw [Function.iterate_add_apply, iterate_whole_climb hn hbound, iterate_descent hn (by omega) (by omega),
      if_neg hdescent.not_ge, Nat.add_sub_cancel]
    simp only [hend, hdescent.not_gt, false_or]
  · have hnotEnd : k ≠ 2 * n := by have := hn.pos hbound; omega
    rw [iterate_climb hn hk hclimb, if_pos hclimb]
    simp only [hnotEnd, or_false, decide_false]

end Cycle

/-- With bound 0 every step is at its end, so the unit turns at each (rule R112). -/
theorem afterStep_bound_zero (sz : Nat) (c : Bool) :
    (RampUnit.atZero 0 .rising c).afterStep sz = .atBound 0 ∧
      (RampUnit.atBound 0).afterStep sz = .atZero 0 .rising true :=
  ⟨afterStep_rising_reaches rfl (Nat.zero_le _), afterStep_falling_reaches rfl (Nat.zero_le _)⟩

/-- Settles O26: step `k` of any cycle as the climb or the descent gives it; with bound 0 both take one
step. -/
theorem rampCycleLength : Obligations.RampCycleLength := by
  refine ⟨fun u sz n m k s hu hv hd hbound hpos hsz hceil hk hkn =>
    ⟨_, execAll_replicate_rstep hu hsz _, ?_⟩, fun u sz s hu hb hv hd hsz => ?_⟩
  · have hn : FewestSteps n sz (s.rb u).toNat := hceil ▸ fewestSteps_ceil hpos _
    simp only [registers_setRampUnit_same hu, rampUnit_eq_atZero hv, hd,
      iterate_cycle hn hbound _ m hk hkn, true_and]
    refine ⟨byteOf_toNat ?_, by simp only [ite_eq_left_iff, reduceCtorEq, imp_false, not_not], decide_eq_true_iff⟩
    have := (s.rb u).isLt
    split <;> omega
  · obtain ⟨hturn, hreturn⟩ := afterStep_bound_zero sz (s.rc u)
    refine ⟨s.setRampUnit u (.atBound 0), s.setRampUnit u (.atZero 0 .rising true), ?_⟩
    simp only [registers_setRampUnit_same hu]
    refine ⟨?_, rfl, rfl, rfl, ?_, rfl, rfl, rfl⟩
    · rw [exec_rstep_within (by rwa [hb]), rampUnit_eq_atZero hv, hb, hd, hturn]
    · rw [exec_rstep_within (by rwa [rb_setRampUnit_same hu]), rampUnit_setRampUnit_same hu, hreturn,
        setRampUnit_setRampUnit]

/-! ## The period of RUP (rule R116) -/

/-- The unit at RUP `k` of any period. -/
theorem iterate_afterUp_atZero {bound : Byte} {n sz k : Nat} (hn : FewestSteps n sz (bound.toNat + 1))
    (hk : 1 ≤ k) (hkn : k ≤ n) (dir : Direction) (c : Bool) :
    (RampUnit.afterUp sz)^[k] (.atZero bound dir c) =
      ⟨bound, byteOf (if k = n then 0 else k * sz), dir, decide (k = n)⟩ := by
  have hvalue (a : Nat) : (RampUnit.atZero bound dir c).rv.toNat + a = a := Nat.zero_add a
  rw [iterate_eq_of_add (f := RampUnit.afterUp) (fun a b h => afterUp_afterUp
    (by rw [hvalue]; exact Nat.lt_succ_iff.1 h) b) hn hk hkn]
  rcases hkn.lt_or_eq with hlt | heq
  · rw [afterUp_within (by rw [hvalue]; exact Nat.lt_succ_iff.1 (hn.lt_iff.1 hlt)), hvalue, if_neg hlt.ne,
      decide_eq_false hlt.ne]
    rfl
  · rw [afterUp_wraps (by rw [hvalue]; exact (hn k).1 heq.ge), if_pos heq, decide_eq_true heq]
    rfl

/-- Settles O29: whole periods lead back to value 0, and the `n`-th RUP of a period is the first whose
sum is past the bound. -/
theorem rupWrapPeriod : Obligations.RupWrapPeriod := by
  intro u sz n m k s hu hv hpos hsz hfloor hk hkn
  have hn : FewestSteps n sz ((s.rb u).toNat + 1) := hfloor ▸ fewestSteps_floor_succ hpos _
  have hperiod (c : Bool) : (RampUnit.afterUp sz)^[n] (.atZero (s.rb u) (s.rd u) c) =
      .atZero (s.rb u) (s.rd u) true := by
    rw [iterate_afterUp_atZero hn (hn.pos (by omega)) le_rfl, if_pos rfl, decide_eq_true rfl]
    rfl
  obtain ⟨c', hperiods⟩ := iterate_periods hperiod m (s.rc u)
  refine ⟨_, execAll_replicate_rup hu hsz _, ?_⟩
  rw [Nat.add_comm, Function.iterate_add_apply, rampUnit_eq_atZero hv, hperiods,
    iterate_afterUp_atZero hn hk hkn]
  simp only [registers_setRampUnit_same hu, true_and]
  refine ⟨byteOf_toNat ?_, decide_eq_true_iff⟩
  have := (s.rb u).isLt
  have := hn.lt_iff (k := k)
  split <;> omega

end Sys2Proof.Machine
end

section
/-! The renderer's two operations (rules R131 to R133, R140, R141): where SETI completes and what it
stores, and what a PWM step leaves in every lane and in the counter. -/

namespace Sys2Proof.Machine

/-! ## SETI (rules R131 to R133) -/

/-- The pattern of SETI: opcode and zero unit field as one byte (rule R73). -/
theorem formatC_seti (a b c d : Byte) : formatC 0x1 0 a b c d = 0x10#8 ++ a ++ b ++ c ++ d := rfl

/-- SETI of a pixel that does not exist is ignored (rule R133). -/
theorem exec_seti_absent {s : State} {p : Nat} (h : s.pixelCount ≤ p) (r g b : Nat) :
    exec (.seti p r g b) s = .next s := if_neg (by simpa [State.hasPixel] using h)

theorem channelAfter_eq_ite (s : State) (v : Nat) (old : Byte) :
    s.channelAfter v old = if v ≤ s.maxIntensity then s.lutRead v else old := by
  simp [State.channelAfter, State.inRange]

/-- SETI with the operands given by channel stores in each channel by that channel's operand. -/
theorem duty_after_seti {s : State} {p : Nat} (h : p < s.pixelCount) (operand : Channel → Nat)
    (c : Channel) :
    (s.after (.seti p (operand .red) (operand .green) (operand .blue))).duty p c =
      if operand c ≤ s.maxIntensity then s.lutRead (operand c) else s.duty p c := by
  rw [after_seti, duty_setPixel_same h, State.pixelAfterSeti, lengthsAfter_get, channelAfter_eq_ite,
    State.duty]

/-- Settles O31: the word by its fields, a pixel that does not exist, and one that does channel by
channel. -/
theorem setiFollowsItsRule : Obligations.SetiFollowsItsRule := by
  intro p r g b s
  refine ⟨fun hp hr hg hb => ?_, fun hp => exec_seti_absent hp r g b, fun hp => ?_⟩
  · have hword := decodeEncodeAgree _ (wellFormed_seti_iff.2 ⟨hp, hr, hg, hb⟩)
    rwa [encode, formatC_seti] at hword
  · have hexec : exec (.seti p r g b) s = .next (s.after (.seti p r g b)) := by
      rw [exec_seti_present hp, after_seti]
    have hduty := duty_after_seti hp (Rgb.get ⟨r, g, b⟩)
    refine ⟨_, hexec, hduty .red, hduty .green, hduty .blue, ?_⟩
    rw [after_seti]
    exact onlyLengthsOfPixelChanged_setPixel hp _

/-! ## PWMSTEP (rules R140, R141) -/

theorem laneOn_eq_true_iff {count : Nat} {d : Byte} : laneOn count d = true ↔ count < d.toNat :=
  decide_eq_true_iff

/-- Every lane of a PWM step is the comparison of the old count; past the bank both sides are off. -/
theorem out_after_pwmstep (s : State) (p : Nat) (c : Channel) :
    (s.after .pwmstep).out p c = laneOn s.cnt.toNat (s.duty p c) := by
  rw [State.out, State.duty, pixel_after]
  split
  · exact rgb_map_get (laneOn s.comparedCount) (s.pixel p).duty c
  · have habsent : s.pixel p = Pixel.zero := List.getD_eq_default _ _ (Nat.le_of_not_lt ‹_›)
    rw [habsent]
    cases c <;> rfl

/-- The frame of a PWM step (rules R37, R140). -/
theorem onlyOutputsAndCountChanged_pwmstep (s : State) :
    OnlyOutputsAndCountChanged s (s.after .pwmstep) := by
  obtain ⟨-, -, hunits⟩ := sameForCommands_pwmstep s
  exact ⟨rfl, hunits, rfl, after_pixelCount s .pwmstep, after_duty (i := .pwmstep) nofun s⟩

/-- Settles O34: the step leaves `State.after`, whose lanes compare the old count. -/
theorem pwmstepFollowsItsRule : Obligations.PwmstepFollowsItsRule := by
  refine ⟨rfl, fun s => ⟨_, exec_pwmstep s, onlyOutputsAndCountChanged_pwmstep s, fun p c _ => ?_,
    nextCount_toNat⟩⟩
  rw [out_after_pwmstep, laneOn_eq_true_iff]

end Sys2Proof.Machine
end

section
/-! The counter's course (rules R142, R147): each edge without reset advances it by its tick, modulo `M`,
so a run advances it by the ticks of the run. -/

namespace Sys2Proof.Machine

/-- The advance of rule R140, wrap included, is addition modulo `M`. -/
theorem nextCount_mod {s : State} (h : s.CountBelowModulus) :
    s.nextCount.toNat = (s.cnt.toNat + 1) % s.modulus := by
  rw [nextCount_toNat h]
  split
  case isTrue hwrap => rw [hwrap, Nat.mod_self]
  case isFalse => exact (Nat.mod_eq_of_lt (by omega)).symm

/-- An edge with a tick leaves the counter and the outputs of the PWM step: its command writes neither
(rule R37). -/
theorem clockEdge_tick_next {e : EdgeInput} (hrst : e.rst = false) (htick : e.pwmTick = true)
    {s t : State} (h : clockEdge e s = .next t) :
    t.cnt = s.nextCount ∧ ∀ p c, t.out p c = laneOn s.cnt.toNat (s.duty p c) := by
  rw [clockEdge_tick hrst htick, exec_pwmstep, andThen_next] at h
  obtain ⟨hcnt, hout⟩ := clockEdge_keeps_out_and_cnt (e := e.withoutTick) hrst rfl h
  exact ⟨hcnt, fun p c => (hout p c).trans (out_after_pwmstep s p c)⟩

theorem clockEdge_cnt {e : EdgeInput} (hrst : e.rst = false) {s t : State} (hs : s.CountBelowModulus)
    (h : clockEdge e s = .next t) : t.cnt.toNat = (s.cnt.toNat + e.pwmTick.toNat) % s.modulus := by
  cases htick : e.pwmTick with
  | false =>
    obtain ⟨hcnt, -⟩ := clockEdge_keeps_out_and_cnt hrst htick h
    rw [hcnt]
    exact (Nat.mod_eq_of_lt hs).symm
  | true =>
    obtain ⟨hcnt, -⟩ := clockEdge_tick_next hrst htick h
    rw [hcnt]
    exact nextCount_mod hs

theorem clockEdge_modulus {e : EdgeInput} {s t : State} (h : clockEdge e s = .next t) :
    t.modulus = s.modulus := congrArg Params.modulus (clockEdge_params h)

theorem clockEdge_countBelowModulus {e : EdgeInput} (hrst : e.rst = false) {s t : State}
    (hs : s.CountBelowModulus) (h : clockEdge e s = .next t) : t.CountBelowModulus := by
  rw [State.CountBelowModulus, clockEdge_cnt hrst hs h, clockEdge_modulus h]
  exact Nat.mod_lt _ (Nat.zero_lt_of_lt hs)

/-! ## Sequences of edges -/

theorem noReset_cons {e : EdgeInput} {es : List EdgeInput} :
    noReset (e :: es) = true ↔ e.rst = false ∧ noReset es = true := by
  simp [noReset]

theorem tickCount_cons (e : EdgeInput) (es : List EdgeInput) :
    tickCount (e :: es) = e.pwmTick.toNat + tickCount es := by
  cases htick : e.pwmTick <;> simp [tickCount, htick, Nat.add_comm]

/-- Settles O35, by induction on the edges: each advances the counter by its tick, modulo `M`. -/
theorem counterCountsTheTicks : Obligations.CounterCountsTheTicks := by
  intro es
  induction es with
  | nil =>
    intro s t hs _ hrun
    cases hrun
    exact (Nat.mod_eq_of_lt hs).symm
  | cons e es ih =>
    intro s t hs hes hrun
    obtain ⟨hrst, hes⟩ := noReset_cons.1 hes
    obtain ⟨s₁, hfirst, hrest⟩ := andThen_eq_next hrun
    rw [ih s₁ t (clockEdge_countBelowModulus hrst hs hfirst) hes hrest, clockEdge_cnt hrst hs hfirst,
      clockEdge_modulus hfirst, Nat.mod_add_mod, tickCount_cons, Nat.add_assoc]

end Sys2Proof.Machine
end

section
/-! On-time (rules R143, R144, R146): the on-steps of a lane are counted by the counts it is compared
with, and over a period those are all of `0 .. M-1`, of which exactly its length are below its length. -/

namespace Sys2Proof.Machine

/-! ## Counts below a length -/

/-- How many of the `n` counts from `start` on, taken modulo `M`, are below `d`. -/
def countsBelow (M d start n : Nat) : Nat := Nat.count (fun k => (start + k) % M < d) n

/-- One edge more at the front: its own count where it ticks, and the rest from the count it leaves. -/
theorem countsBelow_edge (M d start n : Nat) (tick : Bool) :
    countsBelow M d start (tick.toNat + n) =
      (tick && decide (start % M < d)).toNat + countsBelow M d ((start + tick.toNat) % M) n := by
  have hrest : countsBelow M d ((start + tick.toNat) % M) n =
      Nat.count (fun k => (start + (tick.toNat + k)) % M < d) n := by
    simp only [countsBelow, Nat.mod_add_mod, Nat.add_assoc]
  rw [hrest, countsBelow, Nat.count_add]
  cases tick with
  | false => rfl
  | true => by_cases h : start % M < d <;> simp [Nat.count_one, h]

/-- Below `M` exactly `d` numbers are below `d`. -/
theorem count_mod_lt {M d : Nat} (hd : d ≤ M) : Nat.count (fun k => k % M < d) M = d := by
  obtain ⟨rest, rfl⟩ := Nat.exists_eq_add_of_le hd
  have hbelow : Nat.count (fun k => k % (d + rest) < d) d = d :=
    Nat.count_of_forall fun k hk => by rwa [Nat.mod_eq_of_lt (by omega)]
  have habove : Nat.count (fun k => (d + k) % (d + rest) < d) rest = 0 :=
    Nat.count_of_forall_not fun k hk => by rw [Nat.mod_eq_of_lt (by omega)]; omega
  rw [Nat.count_add, hbelow, habove, Nat.add_zero]

/-- Over a whole period the start does not matter: both sides of the sum count up to `start + M`. -/
theorem countsBelow_period {M d : Nat} (hd : d ≤ M) (start : Nat) : countsBelow M d start M = d := by
  have hfromStart := Nat.count_add (fun k => k % M < d) start M
  have hfromZero := Nat.count_add (fun k => k % M < d) M start
  simp only [Nat.add_mod_left, count_mod_lt hd] at hfromZero
  rw [Nat.add_comm start M, hfromZero] at hfromStart
  exact (Nat.add_left_cancel ((Nat.add_comm _ _).trans hfromStart)).symm

/-! ## On-steps along a run -/

theorem onSteps_cons {e : EdgeInput} {s t : State} (h : clockEdge e s = .next t) (p : Nat) (c : Channel)
    (es : List EdgeInput) :
    onSteps p c (e :: es) s = (e.pwmTick && t.out p c).toNat + onSteps p c es t := by
  simp only [onSteps, h]

theorem dutyStays_cons {e : EdgeInput} {s t : State} (h : clockEdge e s = .next t) {p : Nat} {c : Channel}
    {d : Byte} {es : List EdgeInput} :
    dutyStays p c d (e :: es) s = true ↔ s.duty p c = d ∧ dutyStays p c d es t = true := by
  simp only [dutyStays, h, Bool.and_eq_true, decide_eq_true_eq]

/-- An edge sets a lane on where it ticks at a count below the lane's length. -/
theorem clockEdge_on {e : EdgeInput} (hrst : e.rst = false) {s t : State}
    (h : clockEdge e s = .next t) (p : Nat) (c : Channel) :
    (e.pwmTick && t.out p c) = (e.pwmTick && laneOn s.cnt.toNat (s.duty p c)) := by
  cases htick : e.pwmTick with
  | false => rfl
  | true =>
    obtain ⟨-, hout⟩ := clockEdge_tick_next hrst htick h
    rw [hout]

/-- While the length of a lane stays what it is, its on-steps are the counts below it. -/
theorem onSteps_eq_countsBelow {p : Nat} {c : Channel} {d : Byte} {es : List EdgeInput} {s t : State}
    (hs : s.CountBelowModulus) (hes : noReset es = true) (hrun : runEdges es s = .next t)
    (hstays : dutyStays p c d es s = true) :
    onSteps p c es s = countsBelow s.modulus d.toNat s.cnt.toNat (tickCount es) := by
  induction es generalizing s with
  | nil => rfl
  | cons e es ih =>
    obtain ⟨hrst, hes⟩ := noReset_cons.1 hes
    obtain ⟨s₁, hfirst, hrest⟩ := andThen_eq_next hrun
    obtain ⟨rfl, hstays⟩ := (dutyStays_cons hfirst).1 hstays
    rw [onSteps_cons hfirst, clockEdge_on hrst hfirst,
      ih (clockEdge_countBelowModulus hrst hs hfirst) hes hrest hstays, clockEdge_modulus hfirst,
      clockEdge_cnt hrst hs hfirst, tickCount_cons, countsBelow_edge, Nat.mod_eq_of_lt hs, laneOn]

/-! ## Lengths against the modulus -/

/-- On legal parameters no length from the table is above the modulus (rules R23, R54). -/
theorem lengthFromTable_le_modulus {P : Params} (hP : P.Legal) {d : Byte}
    (hd : lengthFromTable P.lut d) : d.toNat ≤ P.modulus := by
  obtain rfl | hmem := hd
  · exact Nat.zero_le _
  · obtain ⟨i, hi, rfl⟩ := List.mem_iff_getElem.1 hmem
    obtain ⟨hentry, -⟩ := modulusIsTheLargestEntry P hP
    rw [← List.getD_eq_getElem _ 0 hi]
    exact hentry i (Nat.le_sub_one_of_lt hi)

theorem duty_fromTable {s : State} (h : s.DutyFromTable) (p : Nat) (c : Channel) :
    lengthFromTable s.lut (s.duty p c) := by
  rcases Nat.lt_or_ge p s.pixelCount with hp | hp
  · obtain ⟨hred, hgreen, hblue⟩ := h _ (pixel_mem hp)
    cases c with
    | red => exact hred
    | green => exact hgreen
    | blue => exact hblue
  · rw [State.duty, State.pixel, List.getD_eq_default _ _ hp]
    cases c <;> exact .inl rfl

theorem duty_le_modulus {s : State} (h : s.Inv) (p : Nat) (c : Channel) :
    (s.duty p c).toNat ≤ s.modulus := by
  obtain ⟨hlegal, hduty, -⟩ := h
  exact lengthFromTable_le_modulus hlegal (duty_fromTable hduty p c)

/-- Settles O36: the counts of `M` PWM steps are those of a whole period. -/
theorem onTimeOverAPeriodIsTheLength : Obligations.OnTimeOverAPeriodIsTheLength := by
  intro es s t p c hs hes hticks hrun hstays
  have ⟨_, _, hcount, _⟩ := hs
  rw [onSteps_eq_countsBelow hcount hes hrun hstays, hticks, countsBelow_period (duty_le_modulus hs p c)]

/-! ## Monotone brightness (rule R144) -/

theorem clockEdge_tickAlone (s : State) : clockEdge .tick s = .next (s.after .pwmstep) :=
  (clockEdge_ofWord (.tick true) s).trans (exec_pwmstep s)

theorem runEdges_ticks (n : Nat) (s : State) :
    ∃ t, runEdges (List.replicate n .tick) s = .next t := by
  induction n generalizing s with
  | zero => exact ⟨s, rfl⟩
  | succ n ih =>
    rw [List.replicate_succ, runEdges, clockEdge_tickAlone, andThen_next]
    exact ih _

/-- Ticks alone leave every length as it is (rule R37). -/
theorem dutyStays_ticks (p : Nat) (c : Channel) (n : Nat) (s : State) :
    dutyStays p c (s.duty p c) (List.replicate n .tick) s = true := by
  induction n generalizing s with
  | zero => rfl
  | succ n ih =>
    rw [List.replicate_succ, dutyStays_cons (clockEdge_tickAlone s),
      ← after_duty (i := .pwmstep) nofun s p c]
    exact ⟨rfl, ih _⟩

/-- Over a period of ticks alone a lane is on for its length. -/
theorem onSteps_ticks {s : State} (hs : s.Inv) (p : Nat) (c : Channel) :
    onSteps p c (List.replicate s.modulus .tick) s = (s.duty p c).toNat := by
  obtain ⟨t, hrun⟩ := runEdges_ticks s.modulus s
  have hes : noReset (List.replicate s.modulus .tick) = true := by
    simp [noReset, EdgeInput.tick, EdgeInput.ofWord]
  have hticks : tickCount (List.replicate s.modulus .tick) = s.modulus := by
    simp [tickCount, EdgeInput.tick, EdgeInput.ofWord, List.countP_replicate]
  exact onTimeOverAPeriodIsTheLength _ s t p c hs hes hticks hrun (dutyStays_ticks p c _ s)

/-- SETC of an intensity in range makes its channel's on-time over a period the table's length of it. -/
theorem onSteps_after_setc {s t : State} {p v : Nat} {c : Channel} (hs : s.Inv) (hp : p < s.pixelCount)
    (hv : v ≤ s.maxIntensity) (h : exec (setcInstr p c v) s = .next t) :
    onSteps p c (List.replicate s.modulus .tick) t = (s.lutRead v).toNat := by
  have ⟨hlegal, _⟩ := hs
  have ⟨⟨_, hpixels⟩, ⟨_, hlut⟩, _⟩ := hlegal
  have hwf : (setcInstr p c v).WellFormed := wellFormed_setcInstr (hp.trans_le hpixels)
    ((hv.trans_lt (Params.maxIntensity_lt_length hlegal)).trans_le hlut) c
  obtain rfl := exec_next h
  have hticks := onSteps_ticks (after_inv hwf hs) p c
  rw [after_modulus] at hticks
  rw [hticks, setcInstr_eq, duty_after_seti hp, setcOperand, if_pos rfl, if_pos hv]

/-- Settles O37: a period's on-time is the table's length, which does not decrease, and one comparison
serves every lane of a step. -/
theorem brighterIsOnAtLeastAsLong : Obligations.BrighterIsOnAtLeastAsLong := by
  refine ⟨fun p v₁ v₂ c s t₁ t₂ hs hp hlt hv₂ h₁ h₂ => ?_, fun p q c d s t _ _ hle h hon => ?_⟩
  · have ⟨hlegal, _⟩ := hs
    have ⟨_, _, hmonotone, _⟩ := hlegal
    rw [onSteps_after_setc hs hp (hlt.le.trans hv₂) h₁, onSteps_after_setc hs hp hv₂ h₂]
    exact Params.lut_getD_mono hmonotone hlt.le
      (hv₂.trans_lt (Params.maxIntensity_lt_length hlegal))
  · obtain rfl := exec_next h
    rw [out_after_pwmstep, laneOn_eq_true_iff] at hon ⊢
    exact hon.trans_le hle

/-! ## The smallest modulus (rule R146) -/

theorem byte_eq_zero_or_one {d : Byte} (h : d.toNat ≤ 1) : d = 0 ∨ d = 1 := by
  bv_omega

/-- Settles O38: with modulus 1 the only count is 0, and every length is at most 1. -/
theorem smallestModulus : Obligations.SmallestModulus := by
  intro s hs hmodulus
  have ⟨hlegal, _, hcount, _⟩ := hs
  obtain ⟨hentry, -⟩ := modulusIsTheLargestEntry s.params hlegal
  have hzero {x : Byte} (hx : x.toNat < s.modulus) : x = 0 := by bv_omega
  have hcnt : s.cnt = 0 := hzero hcount
  refine ⟨hcnt, fun i hi => byte_eq_zero_or_one ((hentry i hi).trans hmodulus.le), _, exec_pwmstep s,
    hzero (nextCount_lt hcount), fun p c _ => ?_⟩
  have hduty : (s.duty p c).toNat ≤ 1 := hmodulus ▸ duty_le_modulus hs p c
  rw [out_after_pwmstep, laneOn_eq_true_iff, hcnt]
  bv_omega

end Sys2Proof.Machine
end

section
/-! NOP and the reserved words (rules R75, R160, R161): a word that leaves the command half of an edge
empty leaves the tick pin's work alone, so all such words do the same at an edge. -/

namespace Sys2Proof.Machine

/-! ## Words that do nothing -/

theorem exec_nop (s : State) : exec .nop s = .next s := rfl

/-- The NOP word is the encoding of NOP. -/
theorem decode_nopWord : decode (.command 0) = .op .nop := decodeEncodeAgree .nop rfl

theorem runWord_nopWord : runWord (.command 0) = .next :=
  funext fun s => (runWord_of_decode decode_nopWord s).trans (exec_nop s)

/-- A carrier the decoder rejects does nothing, whatever the reason. -/
theorem runWord_of_rejected {w : OpWord} {why : DecodeReject} (h : decode w = .rejected why) :
    runWord w = .next := by
  funext s
  unfold runWord
  rw [h]
  rfl

theorem runWord_reserved {w : CmdWord} (h : reservedWord w) : runWord (.command w) = .next := by
  obtain ⟨why, hdecode⟩ := (rejectedWordsAreTheReservedOnes w).2 h
  exact runWord_of_rejected hdecode

/-! ## Edges without a command to run -/

/-- Where the command half does nothing, the edge is its tick pin alone. -/
theorem clockEdge_of_empty_command {e : EdgeInput} (hrst : e.rst = false)
    (hcommand : commandPart e = .next) (s : State) : clockEdge e s = runWord (.tick e.pwmTick) s := by
  rw [clockEdge, hrst, hcommand]
  exact andThen_next_right _

theorem commandPart_invalid {e : EdgeInput} (h : e.cmdValid = false) : commandPart e = .next := by
  funext s
  rw [commandPart, h]
  rfl

theorem commandPart_valid {e : EdgeInput} (h : e.cmdValid = true) :
    commandPart e = runWord (.command e.cmd) := by
  funext s
  rw [commandPart, if_pos h]

theorem commandPart_nopWord (tick : Bool) : commandPart ⟨false, tick, true, 0⟩ = .next :=
  (commandPart_valid rfl).trans runWord_nopWord

/-- Settles O15: the decoder rejects a reserved word, and so its edge, like NOP's, is its tick pin. -/
theorem reservedWordsExecuteAsNop : Obligations.ReservedWordsExecuteAsNop := by
  intro w hw tick s
  have hreserved (tick : Bool) : commandPart ⟨false, tick, true, w⟩ = .next :=
    (commandPart_valid rfl).trans (runWord_reserved hw)
  constructor
  · exact (clockEdge_of_empty_command rfl (hreserved tick) s).trans
      (clockEdge_of_empty_command rfl (commandPart_nopWord tick) s).symm
  · rw [clockEdge_of_no_tick rfl rfl, hreserved]

/-- Settles O16: with the NOP word as with no command, the edge is its tick pin. -/
theorem nopChangesNothing : Obligations.NopChangesNothing := by
  refine ⟨decode_nopWord, fun s => ⟨exec_nop s, fun tick w => ?_⟩⟩
  exact (clockEdge_of_empty_command rfl (commandPart_nopWord tick) s).trans
    (clockEdge_of_empty_command (e := ⟨false, tick, false, w⟩) rfl (commandPart_invalid rfl) s).symm

end Sys2Proof.Machine
end

section
/-! After reset (rule R192): a block shows nothing until a SETI stores a length, and a ramp unit steps only
within its bound of 0. -/

namespace Sys2Proof.Machine

/-! ## A dark block stays dark without SETI -/

/-- Every lane has length 0 and is off: the lengths are part of it because a PWM step turns on a lane
whose length is above the count. -/
def State.Dark (s : State) : Prop := ∀ p c, s.duty p c = 0 ∧ s.out p c = false

/-- The edge presents no SETI. -/
def EdgeInput.NoSeti (e : EdgeInput) : Prop :=
  e.cmdValid = true → ∀ p r g b, decode (.command e.cmd) ≠ .op (.seti p r g b)

theorem resetBlock_dark (s : State) : s.resetBlock.Dark :=
  have ⟨hlanes, _⟩ := resetBlock_registers s
  hlanes

theorem resetWith_dark (P : Params) : (State.resetWith P).Dark :=
  resetWith_resetBlock P ▸ resetBlock_dark (State.resetWith P)

/-- No count is below length 0, so such a lane is off at every PWM step (rule R140). -/
theorem laneOn_zero (count : Nat) : laneOn count 0 = false := decide_eq_false (Nat.not_lt_zero count)

/-- Only SETI writes a length, and only PWMSTEP an output, by comparing the length. -/
theorem after_dark {i : Instr} (hseti : ∀ p r g b, i ≠ .seti p r g b) {s : State} (hs : s.Dark) :
    (s.after i).Dark := by
  intro p c
  obtain ⟨hduty, hout⟩ := hs p c
  refine ⟨(after_duty hseti s p c).trans hduty, ?_⟩
  rcases eq_or_ne i .pwmstep with rfl | hpwmstep
  · rw [out_after_pwmstep, hduty, laneOn_zero]
  · exact (after_out hpwmstep s p c).trans hout

/-- The tick pin carries no SETI (rule R78). -/
theorem decode_tick_ne_seti (level : Bool) (p r g b : Nat) : decode (.tick level) ≠ .op (.seti p r g b) := by
  cases level <;> nofun

theorem ne_seti_of_mem_instrs {e : EdgeInput} (he : e.NoSeti) {i : Instr} (hi : i ∈ e.instrs) (p r g b : Nat) :
    i ≠ .seti p r g b := by
  rintro rfl
  obtain htick | ⟨hvalid, hcommand⟩ := mem_instrs_iff.1 hi
  · exact decode_tick_ne_seti e.pwmTick p r g b htick
  · exact he hvalid p r g b hcommand

theorem clockEdge_dark {e : EdgeInput} (he : e.NoSeti) {s t : State} (h : clockEdge e s = .next t)
    (hs : s.Dark) : t.Dark := by
  obtain ⟨-, rfl⟩ | ⟨-, rfl⟩ := clockEdge_next h
  · exact resetBlock_dark s
  · exact afterAll_preserves (fun _ _ hi => after_dark (ne_seti_of_mem_instrs he hi)) hs

theorem runEdges_dark {es : List EdgeInput} (hes : ∀ e ∈ es, e.NoSeti) {s t : State}
    (h : runEdges es s = .next t) (hs : s.Dark) : t.Dark := by
  induction es generalizing s with
  | nil => cases h; exact hs
  | cons e es ih =>
    obtain ⟨he, hes⟩ := List.forall_mem_cons.1 hes
    obtain ⟨s₁, hfirst, hrest⟩ := andThen_eq_next h
    exact ih hes hrest (clockEdge_dark he hfirst hs)

/-- Settles O43, by induction on the inputs: a reset block is dark, lengths included, and an edge without
SETI keeps it so. -/
theorem outputsStayDarkWithoutSeti : Obligations.OutputsStayDarkWithoutSeti := fun P _ _ hes hrun p c =>
  have ⟨_, hout⟩ := runEdges_dark hes hrun (resetWith_dark P) p c
  hout

/-! ## Step sizes after reset (rule R102) -/

/-- An instruction is refused exactly where it breaks the host's duty. -/
theorem exec_refused_iff {i : Instr} {s : State} :
    exec i s = .refused .stepSizeAboveBound ↔ instrKeepsDuty i s = false := by
  refine ⟨fun hrefused => Bool.eq_false_iff.2 fun hkept => ?_, exec_of_breaksDuty⟩
  cases hrefused.symm.trans (exec_of_keepsDuty hkept)

/-- After reset every bound is 0, so the largest step size with a meaning is 1. -/
theorem stepSizeOk_resetWith (P : Params) (u sz : Nat) :
    (State.resetWith P).stepSizeOk u sz = decide (sz ≤ 1) := by
  rw [← resetWith_resetBlock, State.stepSizeOk, State.rb, resetBlock_rampUnit]
  rfl

theorem hasUnit_resetWith {P : Params} {u : Nat} (hu : u < P.rampUnits) :
    (State.resetWith P).hasUnit u = true := by
  have hcount : (State.resetWith P).rampUnits = P.rampUnits := congrArg Params.rampUnits (resetWith_params P)
  exact hasUnit_eq_true (hcount.symm ▸ hu)

/-- What RSTEP and RUP share: an instruction that after reset keeps the duty just by sizes up to 1 is
refused by the larger ones and completes by these. -/
theorem exec_resetWith_of_keepsDuty_eq {P : Params} {i : Instr} {sz : Nat}
    (h : instrKeepsDuty i (State.resetWith P) = decide (sz ≤ 1)) :
    (exec i (State.resetWith P) = .refused .stepSizeAboveBound ↔ 2 ≤ sz) ∧
      (sz ≤ 1 → ∃ t, exec i (State.resetWith P) = .next t) := by
  constructor
  · rw [exec_refused_iff, h, decide_eq_false_iff_not, Nat.not_le]
    rfl
  · exact fun hsz => ⟨_, exec_of_keepsDuty (h.trans (decide_eq_true hsz))⟩

/-- Settles O20: on a unit that exists, the duty of either operation is the step-size limit, which is 1
after reset. -/
theorem afterResetOnlyStepsZeroAndOneHaveAMeaning :
    Obligations.AfterResetOnlyStepsZeroAndOneHaveAMeaning := by
  intro P u sz hu
  have hkept : (!(State.resetWith P).hasUnit u || (State.resetWith P).stepSizeOk u sz) = decide (sz ≤ 1) := by
    rw [hasUnit_resetWith hu, stepSizeOk_resetWith, Bool.not_true, Bool.false_or]
  obtain ⟨hrstep, hrstepNext⟩ := exec_resetWith_of_keepsDuty_eq (i := .rstep u sz) hkept
  obtain ⟨hrup, hrupNext⟩ := exec_resetWith_of_keepsDuty_eq (i := .rup u sz) hkept
  exact ⟨hrstep, hrup, fun hsz => ⟨hrstepNext hsz, hrupNext hsz⟩⟩

end Sys2Proof.Machine
end
